-- ==== Sys2Proof/Word.lean ====
section
/-! DEFINITION. The word types of the machine (00_scope.md R8, R11): bytes, 16-bit words, register
indexes and the framebuffer's cells. -/

namespace Sys2Proof

/-- A general register, a timer or a byte of memory: 8 bits (10_state.md R20). -/
abbrev Byte := BitVec 8

/-- A 16-bit word: an opcode, pc, I or a stack entry (10_state.md R23, R25, R26). -/
abbrev Word := BitVec 16

/-- The index of a general register, 0..15 (10_state.md R20). -/
abbrev RegIx := Fin 16

/-- The 2048 one-bit cells of the framebuffer; bit c is cell c (10_state.md R29). -/
abbrev Frame := BitVec 2048

/-- The 16 key flags; entry k is key k (10_state.md R31). -/
abbrev Keys := Vector Bool 16

/-- The index of the flag register VF (00_scope.md R10). -/
abbrev vf : RegIx := 15

end Sys2Proof
end

