-- ==== Sys2Proof/Config.lean ====
section
/-! DEFINITION. What the spec leaves to the implementation or to the outside world: the parameters of
00_scope.md R9 that the model keeps open, as constants without a body. -/

namespace Sys2Proof

/-- The settings of VF_DEST_ORDER (42_alu.md R173, decision D5). -/
inductive VfDestOrder where
  /-- FLAG_LAST: VF ends holding the flag. -/
  | flagLast
  /-- RESULT_LAST: VF ends holding the result. -/
  | resultLast
  /-- AS_LISTED: the source's effects read one after the other. -/
  | asListed
deriving DecidableEq, Repr, Inhabited

/-- GLYPH_BASE, the address of glyph 0: OPEN in the spec, bounded by GLYPH_BASE + 80 ≤ 0x200
(20_memory.md R54, decision D17; log 1). -/
opaque Config.glyphBase : Fin 433

/-- VF_DEST_ORDER (42_alu.md R173, decision D5; log 3). -/
opaque Config.vfDestOrder : VfDestOrder

/-- The free value of the n-th poll that no input of the state answers (40_cycle.md R118,
decision D27; log 5). -/
opaque Config.keysNext : Nat → Keys

/-- The free value of the n-th random draw that no input of the state answers; a draw is in
[0, 254] (42_alu.md R171, decision D21; log 6). -/
opaque Config.rndDraw : Nat → Fin 255

end Sys2Proof
end

