-- ==== Sys2Proof/Machine/State.lean ====
section
/-! DEFINITION. The machine's state as plain data (10_state.md), the reasons a step can stop, and the
state after reset (10_state.md R37). -/

namespace Sys2Proof.Machine

/-- The fault kinds of 60_exceptions.md R261. -/
inductive FaultKind where
  /-- Code 1: FETCH at pc > 0xFFE (40_cycle.md R110). -/
  | fetchOutOfRange
  /-- Code 2: CALL at SP = 16 (41_control.md R133). -/
  | stackOverflow
  /-- Code 3: RET at SP = 0 (41_control.md R131). -/
  | stackUnderflow
  /-- Code 4: LD F, Vx with V[X] > 15 (45_index_memory.md R242). -/
  | glyphIndex
  /-- Code 5: SKP or SKNP with V[X] > 15 (44_timers_keys.md R220, R221). -/
  | keyIndex
  /-- Code 6: LD B or LD [I] writing below 0x200 (45_index_memory.md R243, R244). -/
  | reservedWrite
deriving DecidableEq, Repr

/-- The run state (10_state.md R35). -/
inductive RunState where
  /-- Before the program is loaded. -/
  | boot
  /-- The dispatch loop runs. -/
  | running
  /-- Entered only by a fault, left only by a new reset and boot. -/
  | faulted
deriving DecidableEq, Repr

/-- What the program loader answers at boot (70_reset_and_hazards.md R290, R292). -/
inductive LoaderAnswer where
  /-- The program source cannot be read. -/
  | unreadable
  /-- The program's bytes. -/
  | image (bytes : List Byte)
deriving DecidableEq, Repr

/-- Why a step stops with no next state. -/
inductive Fault where
  /-- Raised by `step` in the run state FAULTED, which has no further step (60_exceptions.md R260); it
  carries FAULT. Safe: the machine of the spec has no step there either. -/
  | halted (kind : Option FaultKind)
  /-- Raised by `step` in the run state BOOT when the program is unreadable or longer than 3584 bytes:
  the loop is never entered (70_reset_and_hazards.md R290, decision D25). Safe: no cycle exists. -/
  | bootFailed
deriving DecidableEq, Repr

/-- Why a step gives no meaning. -/
inductive Refusal where
  /-- The arm of `exec` of an instruction without a meaning; no arm uses it, every instruction of the
  table has its meaning. Safe: nothing follows from a refusal. -/
  | notModelled (mnemonic : String)
deriving DecidableEq, Repr

/-- Memory: the bytes that differ from the reset contents, by rising address (20_memory.md R50;
log 11). -/
abbrev Memory := List Host.Cell

/-- Everything the spec gives the machine (10_state.md), the outputs of the last cycle and the host's
inputs (40_cycle.md R120, 60_exceptions.md R271). -/
structure State where
  /-- V[0]..V[15] (10_state.md R20); V[15] is VF (R22). -/
  v : Vector Byte 16
  /-- The index register I (10_state.md R25). -/
  index : Word
  /-- The program counter (10_state.md R23). -/
  pc : Word
  /-- The stack pointer SP, the number of entries in use (10_state.md R26). -/
  sp : Fin 17
  /-- STACK[0]..STACK[15] (10_state.md R26). -/
  stack : Vector Word 16
  /-- The delay timer DT (10_state.md R27). -/
  dt : Byte
  /-- The sound timer ST (10_state.md R28). -/
  st : Byte
  /-- The framebuffer FB (10_state.md R29). -/
  fb : Frame
  /-- The flag REDRAW (10_state.md R30). -/
  redraw : Bool
  /-- The key state KEY (10_state.md R31). -/
  key : Keys
  /-- The memory (20_memory.md R50). -/
  mem : Memory
  /-- The run state (10_state.md R35). -/
  run : RunState
  /-- The fault record FAULT (10_state.md R36). -/
  fault : Option FaultKind
  /-- The fault record FAULT_PC (10_state.md R36). -/
  faultPc : Word
  /-- Output of the last cycle: the snapshot handed to the renderer, if it was called
  (40_cycle.md R116, R120; log 9). -/
  renderOut : Option Frame
  /-- Output of the last cycle: whether the audio strobe fired (40_cycle.md R117, R120; log 9). -/
  audioOut : Bool
  /-- Host input: the loader's answer at the next boot (60_exceptions.md R270; log 12). -/
  loader : LoaderAnswer
  /-- Host input: the results of the coming polls, the next one first (40_cycle.md R120; log 5). -/
  keyInput : List Keys
  /-- The model's own counter of the polls that a free value answered (log 5). -/
  pollCount : Nat
  /-- Host input: the coming random draws, the next one first (40_cycle.md R120; log 6). -/
  drawInput : List (Fin 255)
  /-- The model's own counter of the draws that a free value answered (log 6). -/
  drawCount : Nat
deriving DecidableEq, Repr

/-- The machine after reset and a successful boot with the empty program, before the first cycle
(10_state.md R37, RESET_FILL = ZERO; log 4, 12). -/
def State.reset : State :=
  { v := Vector.replicate 16 0
    index := 0
    pc := 0x200
    sp := 0
    stack := Vector.replicate 16 0
    dt := 0
    st := 0
    fb := 0
    redraw := false
    key := Vector.replicate 16 false
    mem := []
    run := .running
    fault := none
    faultPc := 0
    renderOut := none
    audioOut := false
    loader := .image []
    keyInput := []
    pollCount := 0
    drawInput := []
    drawCount := 0 }

end Sys2Proof.Machine
end

