-- ==== Sys2Proof/Machine/Memory.lean ====
section
/-! DEFINITION. The memory of 20_memory.md: the address map, the reset contents with the glyph table, and
the read and the write of one byte over the canonical list of cells. -/

namespace Sys2Proof.Machine

/-- The number of memory bytes; addresses are 0..4095 (20_memory.md R50). -/
abbrev memSize : Nat := 4096

/-- The first address of the program region; below it lies the reserved range (20_memory.md R53). -/
abbrev programBase : Nat := 0x200

/-- The capacity of the program region in bytes (20_memory.md R53). -/
abbrev programCapacity : Nat := 3584

/-- GLYPH_BASE (20_memory.md R54, decision D17; log 1). -/
abbrev glyphBase : Nat := Config.glyphBase.val

/-- GLYPH_DATA for the digits 0 to 7 (92_eei_decisions.md D18; log 2). -/
def glyphsLow : List Byte :=
  [0xF0, 0x90, 0x90, 0x90, 0xF0] ++ [0x20, 0x60, 0x20, 0x20, 0x70] ++
  [0xF0, 0x10, 0xF0, 0x80, 0xF0] ++ [0xF0, 0x10, 0xF0, 0x10, 0xF0] ++
  [0x90, 0x90, 0xF0, 0x10, 0x10] ++ [0xF0, 0x80, 0xF0, 0x10, 0xF0] ++
  [0xF0, 0x80, 0xF0, 0x90, 0xF0] ++ [0xF0, 0x10, 0x20, 0x40, 0x40]

/-- GLYPH_DATA for the digits 8 to F (92_eei_decisions.md D18; log 2). -/
def glyphsHigh : List Byte :=
  [0xF0, 0x90, 0xF0, 0x90, 0xF0] ++ [0xF0, 0x90, 0xF0, 0x10, 0xF0] ++
  [0xF0, 0x90, 0xF0, 0x90, 0x90] ++ [0xE0, 0x90, 0xE0, 0x90, 0xE0] ++
  [0xF0, 0x80, 0x80, 0x80, 0xF0] ++ [0xE0, 0x90, 0x90, 0x90, 0xE0] ++
  [0xF0, 0x80, 0xF0, 0x80, 0xF0] ++ [0xF0, 0x80, 0xF0, 0x80, 0x80]

/-- GLYPH_DATA, five bytes a digit (92_eei_decisions.md D18; log 2). -/
def glyphData : List Byte := glyphsLow ++ glyphsHigh

/-- The byte the reset leaves at an address: the glyph table in the reserved range, 0 elsewhere
(10_state.md R37). It is what an address the list does not name reads as (log 11). -/
def unlistedByte (a : Nat) : Byte :=
  if a < programBase then
    if glyphBase ≤ a then glyphData.getD (a - glyphBase) 0 else 0
  else 0

/-- MemRead(a, 1): the byte at address a (00_scope.md R14). -/
def Memory.read (m : Memory) (a : Nat) : Byte :=
  match m with
  | [] => unlistedByte a
  | c :: rest => if c.1 = a then c.2 else Memory.read rest a

/-- The cell of address a with byte b before `rest`, left out where b is what a reads as unlisted. -/
def Memory.consCell (a : Nat) (b : Byte) (rest : Memory) : Memory :=
  if b = unlistedByte a then rest else (a, b) :: rest

/-- MemWrite(a, 1, b): memory with the byte b at address a, in canonical form (00_scope.md R14). -/
def Memory.write (m : Memory) (a : Nat) (b : Byte) : Memory :=
  match m with
  | [] => Memory.consCell a b []
  | c :: rest =>
    if a < c.1 then Memory.consCell a b (c :: rest)
    else if c.1 = a then Memory.consCell a b rest
    else c :: Memory.write rest a b

/-- Bytes written at rising addresses from a on: the loader's copy (70_reset_and_hazards.md R290). -/
def Memory.load (m : Memory) (a : Nat) (bytes : List Byte) : Memory :=
  match bytes with
  | [] => m
  | b :: rest => Memory.load (m.write a b) (a + 1) rest

/-- Every listed address is at least `lo`, below 4096, above the ones before it, and its byte is not
what the address reads as unlisted. -/
def Memory.wfFrom (lo : Nat) (m : Memory) : Bool :=
  match m with
  | [] => true
  | c :: rest =>
    lo ≤ c.1 && c.1 < memSize && c.2 != unlistedByte c.1 && Memory.wfFrom (c.1 + 1) rest

/-- The canonical form of memory. -/
def Memory.wf (m : Memory) : Bool := Memory.wfFrom 0 m

end Sys2Proof.Machine
end

