-- ==== Sys2Proof/Machine/Ops.lean ====
section
/-! DEFINITION. The named operations over registers, pc, stack, memory and host inputs, and the one
operation that enters FAULTED (40_cycle.md R121, 60_exceptions.md R260). -/

namespace Sys2Proof.Machine

/-- What a behaviour answers. -/
abbrev Result := Host.Outcome State Fault Refusal

/-! ## General registers -/

/-- `V[x]` (00_scope.md R13). -/
def State.getV (s : State) (x : RegIx) : Byte := s.v[x]

/-- `V[x] <- b` (00_scope.md R13). -/
def State.setV (s : State) (x : RegIx) (b : Byte) : State := { s with v := s.v.set x b }

/-! ## Program counter -/

/-- A natural address reduced modulo 4096 (40_cycle.md R111, decision D9). -/
def wrapAddr (n : Nat) : Word := BitVec.ofNat 16 (n % memSize)

/-- The pre-advance `pc <- (a + 2) mod 4096` (40_cycle.md R111). -/
def State.preAdvance (s : State) : State := { s with pc := wrapAddr (s.pc.toNat + 2) }

/-- A skip: `pc <- (pc + 2) mod 4096` (40_cycle.md R115). -/
def State.skip (s : State) : State := { s with pc := wrapAddr (s.pc.toNat + 2) }

/-- The address a of the opcode in execution: the pre-advanced pc less 2, modulo 4096
(16-bit wrap-around keeps the residue; 40_cycle.md R111; log 8). -/
def State.opAddr (s : State) : Word := wrapAddr (s.pc - 2).toNat

/-- The rewind of Fx0A: `pc <- (pc - 2) mod 4096` (44_timers_keys.md R223). -/
def State.rewind (s : State) : State := { s with pc := s.opAddr }

/-- `pc <- target` (00_scope.md R13). -/
def State.jump (s : State) (target : Word) : State := { s with pc := target }

/-! ## Faults -/

/-- The codes of 60_exceptions.md R261. -/
def FaultKind.code (k : FaultKind) : Nat :=
  match k with
  | .fetchOutOfRange => 1
  | .stackOverflow => 2
  | .stackUnderflow => 3
  | .glyphIndex => 4
  | .keyIndex => 5
  | .reservedWrite => 6

/-- Entering FAULTED at the opcode address a: pc is a again, FAULT and FAULT_PC are recorded, and nothing
else of the state changes (40_cycle.md R121, 60_exceptions.md R264; log 7). -/
def State.enterFaulted (s : State) (k : FaultKind) (a : Word) : State :=
  { s with pc := a, run := .faulted, fault := some k, faultPc := a }

/-- `raise Fault(k, a)` by a behaviour, with the pre-advance undone (00_scope.md R15; log 8). A
behaviour raises before it writes any state (60_exceptions.md R263). -/
def raise (k : FaultKind) (s : State) : Result := .next (s.enterFaulted k s.opAddr)

/-! ## Memory -/

/-- The address of the k-th byte of a data access, `ea(k) = (I + k) mod 4096` (20_memory.md R57). -/
def State.ea (s : State) (k : Nat) : Nat := (s.index.toNat + k) % memSize

/-- `MemRead(a, 1)` (00_scope.md R14). -/
def State.memRead (s : State) (a : Nat) : Byte := Memory.read s.mem a

/-- `MemWrite(a, 1, b)`, after the check of the reserved range (00_scope.md R14). -/
def State.memWrite (s : State) (a : Nat) (b : Byte) : State := { s with mem := Memory.write s.mem a b }

/-- Some of the first n addresses `ea(0)..ea(n-1)` lies in the reserved range (20_memory.md R59). -/
def State.touchesReserved (s : State) (n : Nat) : Bool :=
  (List.range n).any fun k => s.ea k < programBase

/-- The bytes written at `ea(k)`, `ea(k+1)`, ... in ascending order (20_memory.md R60). -/
def State.writeBytes (s : State) (k : Nat) (bytes : List Byte) : State :=
  match bytes with
  | [] => s
  | b :: rest => State.writeBytes (s.memWrite (s.ea k) b) (k + 1) rest

/-- The multi-byte store of Fx33 and Fx55: all addresses are checked before the first write
(20_memory.md R59, R60). -/
def storeBytes (bytes : List Byte) (s : State) : Result :=
  if s.touchesReserved bytes.length then raise .reservedWrite s else .next (s.writeBytes 0 bytes)

/-! ## Host inputs -/

/-- The random draw in [0, 254] that the next Cxkk receives: the host's input, else a free value
(42_alu.md R171, 40_cycle.md R120; log 6). -/
def State.nextDraw (s : State) : Fin 255 :=
  match s.drawInput with
  | r :: _ => r
  | [] => Config.rndDraw s.drawCount

/-- The state with that draw consumed. -/
def State.dropDraw (s : State) : State :=
  match s.drawInput with
  | _ :: rest => { s with drawInput := rest }
  | [] => { s with drawCount := s.drawCount + 1 }

/-- The key flags that the next POLL delivers: the host's input, else a free value (40_cycle.md R118,
R120; log 5). -/
def State.nextKeys (s : State) : Keys :=
  match s.keyInput with
  | ks :: _ => ks
  | [] => Config.keysNext s.pollCount

/-- The state with that poll result consumed. -/
def State.dropKeys (s : State) : State :=
  match s.keyInput with
  | _ :: rest => { s with keyInput := rest }
  | [] => { s with pollCount := s.pollCount + 1 }

end Sys2Proof.Machine
end

