-- ==== Sys2Proof/Machine/Boot.lean ====
section
/-! DEFINITION. Reset and boot (70_reset_and_hazards.md R290, R292). -/

namespace Sys2Proof.Machine

/-- A new reset, which the host asks for in any state: the machine is in BOOT, and the loader will give
this answer (70_reset_and_hazards.md R290, 60_exceptions.md R265; log 12). -/
def State.restart (s : State) (answer : LoaderAnswer) : State := { s with run := .boot, loader := answer }

/-- The machine rebuilt at its reset values with the program's bytes from 0x200 on, RUNNING; the host's
inputs are the host's and stay (70_reset_and_hazards.md R290). -/
def State.booted (s : State) (bytes : List Byte) : State :=
  { State.reset with
    mem := Memory.load State.reset.mem programBase bytes
    loader := s.loader
    keyInput := s.keyInput
    pollCount := s.pollCount
    drawInput := s.drawInput
    drawCount := s.drawCount }

/-- Boot: the loader's two checks, then the copy (70_reset_and_hazards.md R290, R292; log 13). -/
def boot (s : State) : Result :=
  match s.loader with
  | .unreadable => .fault .bootFailed
  | .image bytes => if bytes.length ≤ programCapacity then .next (s.booted bytes) else .fault .bootFailed

end Sys2Proof.Machine
end

