-- ==== Sys2Proof/Syntax.lean ====
section
/-! DEFINITION. The 35 instructions of 30_encoding.md R84, one constructor per row of the dispatch
table, in the table's order. Operands are the fields of the row (R81); a field the row ignores is no
operand (log 15). -/

namespace Sys2Proof

/-- One instruction of the table of 30_encoding.md R84. -/
inductive Instr where
  /-- SYS nnn (0nnn), 41_control.md R130 -/
  | sys (nnn : BitVec 12)
  /-- CLS (00E0), 43_display.md R200 -/
  | cls
  /-- RET (00EE), 41_control.md R131 -/
  | ret
  /-- JP nnn (1nnn), 41_control.md R132 -/
  | jp (nnn : BitVec 12)
  /-- CALL nnn (2nnn), 41_control.md R133 -/
  | call (nnn : BitVec 12)
  /-- SE Vx, kk (3xkk), 41_control.md R134 -/
  | seImm (x : RegIx) (kk : Byte)
  /-- SE Vx, Vy (5xy0), 41_control.md R135 -/
  | seReg (x y : RegIx)
  /-- SNE Vx, kk (4xkk), 41_control.md R136 -/
  | sneImm (x : RegIx) (kk : Byte)
  /-- SNE Vx, Vy (9xy0), 41_control.md R137 -/
  | sneReg (x y : RegIx)
  /-- LD Vx, kk (6xkk), 42_alu.md R160 -/
  | ldImm (x : RegIx) (kk : Byte)
  /-- ADD Vx, kk (7xkk), 42_alu.md R161 -/
  | addImm (x : RegIx) (kk : Byte)
  /-- LD Vx, Vy (8xy0), 42_alu.md R162 -/
  | ldReg (x y : RegIx)
  /-- OR Vx, Vy (8xy1), 42_alu.md R163 -/
  | orReg (x y : RegIx)
  /-- AND Vx, Vy (8xy2), 42_alu.md R164 -/
  | andReg (x y : RegIx)
  /-- XOR Vx, Vy (8xy3), 42_alu.md R165 -/
  | xorReg (x y : RegIx)
  /-- ADD Vx, Vy (8xy4), 42_alu.md R166 -/
  | addReg (x y : RegIx)
  /-- SUB Vx, Vy (8xy5), 42_alu.md R167 -/
  | subReg (x y : RegIx)
  /-- SUBN Vx, Vy (8xy7), 42_alu.md R168 -/
  | subnReg (x y : RegIx)
  /-- SHR Vx (8xy6), 42_alu.md R169; Y is ignored -/
  | shr (x : RegIx)
  /-- SHL Vx (8xyE), 42_alu.md R170; Y is ignored -/
  | shl (x : RegIx)
  /-- LD I, nnn (Annn), 45_index_memory.md R240 -/
  | ldI (nnn : BitVec 12)
  /-- JP V0, nnn (Bnnn), 41_control.md R138 -/
  | jpV0 (nnn : BitVec 12)
  /-- RND Vx, kk (Cxkk), 42_alu.md R171 -/
  | rnd (x : RegIx) (kk : Byte)
  /-- DRW Vx, Vy, n (Dxyn), 43_display.md R201 -/
  | drw (x y : RegIx) (n : BitVec 4)
  /-- SKP Vx (Ex9E), 44_timers_keys.md R220 -/
  | skp (x : RegIx)
  /-- SKNP Vx (ExA1), 44_timers_keys.md R221 -/
  | sknp (x : RegIx)
  /-- LD Vx, DT (Fx07), 44_timers_keys.md R222 -/
  | ldVxDt (x : RegIx)
  /-- LD Vx, K (Fx0A), 44_timers_keys.md R223 -/
  | ldVxK (x : RegIx)
  /-- LD DT, Vx (Fx15), 44_timers_keys.md R225 -/
  | ldDtVx (x : RegIx)
  /-- LD ST, Vx (Fx18), 44_timers_keys.md R226 -/
  | ldStVx (x : RegIx)
  /-- ADD I, Vx (Fx1E), 45_index_memory.md R241 -/
  | addI (x : RegIx)
  /-- LD F, Vx (Fx29), 45_index_memory.md R242 -/
  | ldF (x : RegIx)
  /-- LD B, Vx (Fx33), 45_index_memory.md R243 -/
  | ldB (x : RegIx)
  /-- LD [I], Vx (Fx55), 45_index_memory.md R244 -/
  | ldMemVx (x : RegIx)
  /-- LD Vx, [I] (Fx65), 45_index_memory.md R245 -/
  | ldVxMem (x : RegIx)
deriving DecidableEq, Repr

end Sys2Proof
end

