-- ==== Sys2Proof/Decode.lean ====
section
/-! DEFINITION. The opcode's fields (00_scope.md R16), the dispatch table of 30_encoding.md R84 with the
scan of R89, the decoder the step uses (R90) and the encoder (R91). -/

namespace Sys2Proof

/-- `op[lo + width - 1 : lo]` as a natural (00_scope.md R12). -/
def opBits (op : Word) (lo width : Nat) : Nat := op.toNat / 2 ^ lo % 2 ^ width

/-- X = op[11:8] (00_scope.md R16). -/
def opX (op : Word) : RegIx := ⟨opBits op 8 4, Nat.mod_lt _ (by decide)⟩

/-- Y = op[7:4] (00_scope.md R16). -/
def opY (op : Word) : RegIx := ⟨opBits op 4 4, Nat.mod_lt _ (by decide)⟩

/-- N = op[3:0] (00_scope.md R16). -/
def opN (op : Word) : BitVec 4 := BitVec.ofNat 4 (opBits op 0 4)

/-- KK = op[7:0] (00_scope.md R16). -/
def opKK (op : Word) : Byte := BitVec.ofNat 8 (opBits op 0 8)

/-- NNN = op[11:0] (00_scope.md R16). -/
def opNNN (op : Word) : BitVec 12 := BitVec.ofNat 12 (opBits op 0 12)

/-! ## The dispatch table and its scan -/

/-- An entry of the dispatch table: a mask, a pattern and the instruction it selects
(00_scope.md R17, 30_encoding.md R84). -/
structure Row where
  mask : Word
  pattern : Word
  behaviour : Word → Instr

/-- An opcode matches an entry when `(op AND mask) == pattern` (30_encoding.md R84). -/
def Row.matchesOp (r : Row) (op : Word) : Bool := op &&& r.mask == r.pattern

/-- Entries 1 to 9 of 30_encoding.md R84. -/
def tableControl : List Row :=
  [ ⟨0xF000, 0x0000, fun op => .sys (opNNN op)⟩,
    ⟨0xFFFF, 0x00E0, fun _ => .cls⟩,
    ⟨0xFFFF, 0x00EE, fun _ => .ret⟩,
    ⟨0xF000, 0x1000, fun op => .jp (opNNN op)⟩,
    ⟨0xF000, 0x2000, fun op => .call (opNNN op)⟩,
    ⟨0xF000, 0x3000, fun op => .seImm (opX op) (opKK op)⟩,
    ⟨0xF000, 0x5000, fun op => .seReg (opX op) (opY op)⟩,
    ⟨0xF000, 0x4000, fun op => .sneImm (opX op) (opKK op)⟩,
    ⟨0xF000, 0x9000, fun op => .sneReg (opX op) (opY op)⟩ ]

/-- Entries 10 to 20 of 30_encoding.md R84. -/
def tableAlu : List Row :=
  [ ⟨0xF000, 0x6000, fun op => .ldImm (opX op) (opKK op)⟩,
    ⟨0xF000, 0x7000, fun op => .addImm (opX op) (opKK op)⟩,
    ⟨0xF00F, 0x8000, fun op => .ldReg (opX op) (opY op)⟩,
    ⟨0xF00F, 0x8001, fun op => .orReg (opX op) (opY op)⟩,
    ⟨0xF00F, 0x8002, fun op => .andReg (opX op) (opY op)⟩,
    ⟨0xF00F, 0x8003, fun op => .xorReg (opX op) (opY op)⟩,
    ⟨0xF00F, 0x8004, fun op => .addReg (opX op) (opY op)⟩,
    ⟨0xF00F, 0x8005, fun op => .subReg (opX op) (opY op)⟩,
    ⟨0xF00F, 0x8007, fun op => .subnReg (opX op) (opY op)⟩,
    ⟨0xF00F, 0x8006, fun op => .shr (opX op)⟩,
    ⟨0xF00F, 0x800E, fun op => .shl (opX op)⟩ ]

/-- Entries 21 to 26 of 30_encoding.md R84. -/
def tableIndexDisplayKeys : List Row :=
  [ ⟨0xF000, 0xA000, fun op => .ldI (opNNN op)⟩,
    ⟨0xF000, 0xB000, fun op => .jpV0 (opNNN op)⟩,
    ⟨0xF000, 0xC000, fun op => .rnd (opX op) (opKK op)⟩,
    ⟨0xF000, 0xD000, fun op => .drw (opX op) (opY op) (opN op)⟩,
    ⟨0xF0FF, 0xE09E, fun op => .skp (opX op)⟩,
    ⟨0xF0FF, 0xE0A1, fun op => .sknp (opX op)⟩ ]

/-- Entries 27 to 35 of 30_encoding.md R84. -/
def tableClassF : List Row :=
  [ ⟨0xF0FF, 0xF007, fun op => .ldVxDt (opX op)⟩,
    ⟨0xF0FF, 0xF00A, fun op => .ldVxK (opX op)⟩,
    ⟨0xF0FF, 0xF015, fun op => .ldDtVx (opX op)⟩,
    ⟨0xF0FF, 0xF018, fun op => .ldStVx (opX op)⟩,
    ⟨0xF0FF, 0xF01E, fun op => .addI (opX op)⟩,
    ⟨0xF0FF, 0xF029, fun op => .ldF (opX op)⟩,
    ⟨0xF0FF, 0xF033, fun op => .ldB (opX op)⟩,
    ⟨0xF0FF, 0xF055, fun op => .ldMemVx (opX op)⟩,
    ⟨0xF0FF, 0xF065, fun op => .ldVxMem (opX op)⟩ ]

/-- The 35 entries in the order of 30_encoding.md R84. -/
def dispatchTable : List Row :=
  tableControl ++ tableAlu ++ tableIndexDisplayKeys ++ tableClassF

/-- The list of matching entries in table order (30_encoding.md R89). -/
def matchesOf (op : Word) : List Instr :=
  (dispatchTable.filter (·.matchesOp op)).map (·.behaviour op)

/-! ## The decoder -/

/-- The opcodes that match no entry, by class (30_encoding.md R87). -/
inductive Unmatched where
  /-- 0x8XYN with N in 8..D or F. -/
  | class8
  /-- 0xEXKK with KK other than 9E and A1. -/
  | classE
  /-- 0xFXKK with KK other than the nine function bytes of class F. -/
  | classF
deriving DecidableEq, Repr

/-- Class 0: the fixed words CLS and RET, and SYS for the rest (30_encoding.md R85, R86). -/
def decodeClass0 (op : Word) : Instr :=
  if op = 0x00E0#16 then .cls else if op = 0x00EE#16 then .ret else .sys (opNNN op)

/-- Class 8 is split by the low nibble (30_encoding.md R85). -/
def decodeClass8 (op : Word) : Except Unmatched Instr :=
  match opBits op 0 4 with
  | 0x0 => .ok (.ldReg (opX op) (opY op))
  | 0x1 => .ok (.orReg (opX op) (opY op))
  | 0x2 => .ok (.andReg (opX op) (opY op))
  | 0x3 => .ok (.xorReg (opX op) (opY op))
  | 0x4 => .ok (.addReg (opX op) (opY op))
  | 0x5 => .ok (.subReg (opX op) (opY op))
  | 0x6 => .ok (.shr (opX op))
  | 0x7 => .ok (.subnReg (opX op) (opY op))
  | 0xE => .ok (.shl (opX op))
  | _ => .error .class8

/-- Class E is split by the low byte (30_encoding.md R85). -/
def decodeClassE (op : Word) : Except Unmatched Instr :=
  match opBits op 0 8 with
  | 0x9E => .ok (.skp (opX op))
  | 0xA1 => .ok (.sknp (opX op))
  | _ => .error .classE

/-- Class F is split by the low byte (30_encoding.md R85). -/
def decodeClassF (op : Word) : Except Unmatched Instr :=
  match opBits op 0 8 with
  | 0x07 => .ok (.ldVxDt (opX op))
  | 0x0A => .ok (.ldVxK (opX op))
  | 0x15 => .ok (.ldDtVx (opX op))
  | 0x18 => .ok (.ldStVx (opX op))
  | 0x1E => .ok (.addI (opX op))
  | 0x29 => .ok (.ldF (opX op))
  | 0x33 => .ok (.ldB (opX op))
  | 0x55 => .ok (.ldMemVx (opX op))
  | 0x65 => .ok (.ldVxMem (opX op))
  | _ => .error .classF

/-- The decoder, keyed by the leading nibble (30_encoding.md R85, R90): the instruction an opcode
executes, or the class in which it matches no entry. Class F is the last arm. -/
def decode (op : Word) : Except Unmatched Instr :=
  match opBits op 12 4 with
  | 0x0 => .ok (decodeClass0 op)
  | 0x1 => .ok (.jp (opNNN op))
  | 0x2 => .ok (.call (opNNN op))
  | 0x3 => .ok (.seImm (opX op) (opKK op))
  | 0x4 => .ok (.sneImm (opX op) (opKK op))
  | 0x5 => .ok (.seReg (opX op) (opY op))
  | 0x6 => .ok (.ldImm (opX op) (opKK op))
  | 0x7 => .ok (.addImm (opX op) (opKK op))
  | 0x8 => decodeClass8 op
  | 0x9 => .ok (.sneReg (opX op) (opY op))
  | 0xA => .ok (.ldI (opNNN op))
  | 0xB => .ok (.jpV0 (opNNN op))
  | 0xC => .ok (.rnd (opX op) (opKK op))
  | 0xD => .ok (.drw (opX op) (opY op) (opN op))
  | 0xE => decodeClassE op
  | _ => decodeClassF op

/-- The opcode of two fetched bytes, the byte at the lower address first and high
(20_memory.md R55). -/
def opcodeOfBytes (hi lo : Byte) : Word := BitVec.ofNat 16 (hi.toNat * 256 + lo.toNat)

/-- The high byte of an opcode, stored at the lower address (20_memory.md R55). -/
def opHigh (op : Word) : Byte := BitVec.ofNat 8 (op.toNat / 256)

/-- The low byte of an opcode, stored at the higher address (20_memory.md R55). -/
def opLow (op : Word) : Byte := BitVec.ofNat 8 op.toNat

/-- The opcode whose table bits are w: the low `nbits` bits of w, the rest zero. -/
def tableOpcode (nbits w : Nat) : Word := BitVec.ofNat 16 (w % 2 ^ nbits)

/-- The host's question: the instruction the decoder reads from the two bytes of the table word w. -/
def decodeTableWord (nbits w : Nat) : Option Instr :=
  match decode (opcodeOfBytes (opHigh (tableOpcode nbits w)) (opLow (tableOpcode nbits w))) with
  | .ok i => some i
  | .error _ => none

/-! ## The encoder -/

/-- The word of four nibbles `c x y n` (30_encoding.md R81). -/
def wordOfNibbles (c x y n : Nat) : Word := BitVec.ofNat 16 (c * 4096 + x * 256 + y * 16 + n)

/-- The NNN form `cccc nnnn nnnn nnnn` (30_encoding.md R81). -/
def wordNNN (c : Nat) (nnn : BitVec 12) : Word := BitVec.ofNat 16 (c * 4096 + nnn.toNat)

/-- The XKK form `cccc xxxx kkkk kkkk`, and with a function byte the X form (30_encoding.md R81). -/
def wordXKK (c : Nat) (x : RegIx) (kk : Nat) : Word := BitVec.ofNat 16 (c * 4096 + x.val * 256 + kk)

/-- The word of an instruction, every ignored field written 0 (30_encoding.md R91). -/
def encode (i : Instr) : Word :=
  match i with
  | .sys nnn => wordNNN 0x0 nnn
  | .cls => wordOfNibbles 0x0 0x0 0xE 0x0
  | .ret => wordOfNibbles 0x0 0x0 0xE 0xE
  | .jp nnn => wordNNN 0x1 nnn
  | .call nnn => wordNNN 0x2 nnn
  | .seImm x kk => wordXKK 0x3 x kk.toNat
  | .seReg x y => wordOfNibbles 0x5 x y 0x0
  | .sneImm x kk => wordXKK 0x4 x kk.toNat
  | .sneReg x y => wordOfNibbles 0x9 x y 0x0
  | .ldImm x kk => wordXKK 0x6 x kk.toNat
  | .addImm x kk => wordXKK 0x7 x kk.toNat
  | .ldReg x y => wordOfNibbles 0x8 x y 0x0
  | .orReg x y => wordOfNibbles 0x8 x y 0x1
  | .andReg x y => wordOfNibbles 0x8 x y 0x2
  | .xorReg x y => wordOfNibbles 0x8 x y 0x3
  | .addReg x y => wordOfNibbles 0x8 x y 0x4
  | .subReg x y => wordOfNibbles 0x8 x y 0x5
  | .subnReg x y => wordOfNibbles 0x8 x y 0x7
  | .shr x => wordOfNibbles 0x8 x 0x0 0x6
  | .shl x => wordOfNibbles 0x8 x 0x0 0xE
  | .ldI nnn => wordNNN 0xA nnn
  | .jpV0 nnn => wordNNN 0xB nnn
  | .rnd x kk => wordXKK 0xC x kk.toNat
  | .drw x y n => wordOfNibbles 0xD x y n.toNat
  | .skp x => wordXKK 0xE x 0x9E
  | .sknp x => wordXKK 0xE x 0xA1
  | .ldVxDt x => wordXKK 0xF x 0x07
  | .ldVxK x => wordXKK 0xF x 0x0A
  | .ldDtVx x => wordXKK 0xF x 0x15
  | .ldStVx x => wordXKK 0xF x 0x18
  | .addI x => wordXKK 0xF x 0x1E
  | .ldF x => wordXKK 0xF x 0x29
  | .ldB x => wordXKK 0xF x 0x33
  | .ldMemVx x => wordXKK 0xF x 0x55
  | .ldVxMem x => wordXKK 0xF x 0x65

end Sys2Proof
end

