-- ==== Sys2Proof/Machine/Flags.lean ====
section
/-! DEFINITION. Every flag computation of the spec, and the write of a result with its flag
(42_alu.md R166 to R170, R172, R173). -/

namespace Sys2Proof.Machine

/-- `bool(c)` (00_scope.md R11) as a byte. -/
def boolByte (c : Bool) : Byte := if c then 1 else 0

/-- The carry of 8xy4: 1 when the unsigned sum exceeds 255 (42_alu.md R166). -/
def carryFlag (a b : Byte) : Byte := boolByte (255 < a.toNat + b.toNat)

/-- The not-borrow of `a - b`: 1 when a > b strictly (42_alu.md R167, R168). -/
def notBorrowFlag (a b : Byte) : Byte := boolByte (b.toNat < a.toNat)

/-- The bit SHR shifts out, bit 0 (42_alu.md R169). -/
def shiftedOutLow (a : Byte) : Byte := a &&& 1

/-- The bit SHL shifts out, bit 7 (42_alu.md R170). -/
def shiftedOutHigh (a : Byte) : Byte := (a >>> 7) &&& 1

/-- VF_DEST_ORDER as the meanings take it (42_alu.md R173; log 3). -/
def vfDestOrder : VfDestOrder := Config.vfDestOrder

/-- The final VF where VF is also the destination; `listed` is what AS_LISTED leaves
(42_alu.md R173). -/
def vfAsDest (order : VfDestOrder) (result flag listed : Byte) : Byte :=
  match order with
  | .flagLast => flag
  | .resultLast => result
  | .asListed => listed

/-- The result to V[x] and the flag to VF; where x is VF itself, VF_DEST_ORDER decides
(42_alu.md R173). -/
def State.setResultFlag (order : VfDestOrder) (s : State) (x : RegIx) (result flag listed : Byte) : State :=
  if x = vf then s.setV vf (vfAsDest order result flag listed) else (s.setV x result).setV vf flag

end Sys2Proof.Machine
end

