-- ==== Sys2Proof/Machine/Alu.lean ====
section
/-! DEFINITION. The register and ALU instructions of 42_alu.md. x0 and y0 are V[X] and V[Y] before any
write. -/

namespace Sys2Proof.Machine

/-- LD Vx, kk (42_alu.md R160). -/
def execLdImm (x : RegIx) (kk : Byte) (s : State) : Result := .next (s.setV x kk)

/-- ADD Vx, kk (42_alu.md R161): modulo 256, no flag. -/
def execAddImm (x : RegIx) (kk : Byte) (s : State) : Result := .next (s.setV x (s.getV x + kk))

/-- LD Vx, Vy (42_alu.md R162). -/
def execLdReg (x y : RegIx) (s : State) : Result := .next (s.setV x (s.getV y))

/-- OR Vx, Vy (42_alu.md R163). -/
def execOrReg (x y : RegIx) (s : State) : Result := .next (s.setV x (s.getV x ||| s.getV y))

/-- AND Vx, Vy (42_alu.md R164). -/
def execAndReg (x y : RegIx) (s : State) : Result := .next (s.setV x (s.getV x &&& s.getV y))

/-- XOR Vx, Vy (42_alu.md R165). -/
def execXorReg (x y : RegIx) (s : State) : Result := .next (s.setV x (s.getV x ^^^ s.getV y))

/-- ADD Vx, Vy (42_alu.md R166): the sum modulo 256, VF the carry; AS_LISTED writes the flag last. -/
def execAddReg (x y : RegIx) (s : State) : Result :=
  let x0 := s.getV x
  let y0 := s.getV y
  .next (s.setResultFlag vfDestOrder x (x0 + y0) (carryFlag x0 y0) (carryFlag x0 y0))

/-- SUB Vx, Vy (42_alu.md R167): `x0 - y0` modulo 256, VF strict not-borrow. -/
def execSubReg (x y : RegIx) (s : State) : Result :=
  let x0 := s.getV x
  let y0 := s.getV y
  .next (s.setResultFlag vfDestOrder x (x0 - y0) (notBorrowFlag x0 y0) (notBorrowFlag x0 y0))

/-- SUBN Vx, Vy (42_alu.md R168): `y0 - x0` modulo 256, VF strict not-borrow. -/
def execSubnReg (x y : RegIx) (s : State) : Result :=
  let x0 := s.getV x
  let y0 := s.getV y
  .next (s.setResultFlag vfDestOrder x (y0 - x0) (notBorrowFlag y0 x0) (notBorrowFlag y0 x0))

/-- SHR Vx (42_alu.md R169): VF is bit 0 of x0; AS_LISTED shifts the flag once more (R173). -/
def execShr (x : RegIx) (s : State) : Result :=
  let x0 := s.getV x
  .next (s.setResultFlag vfDestOrder x (x0 >>> 1) (shiftedOutLow x0) (shiftedOutLow x0 >>> 1))

/-- SHL Vx (42_alu.md R170): VF is bit 7 of x0; AS_LISTED shifts the flag once more (R173). -/
def execShl (x : RegIx) (s : State) : Result :=
  let x0 := s.getV x
  .next (s.setResultFlag vfDestOrder x (x0 <<< 1) (shiftedOutHigh x0) (shiftedOutHigh x0 <<< 1))

/-- RND Vx, kk (42_alu.md R171): a fresh draw in [0, 254] AND kk (log 6). -/
def execRnd (x : RegIx) (kk : Byte) (s : State) : Result :=
  .next (s.dropDraw.setV x (BitVec.ofNat 8 s.nextDraw.val &&& kk))

end Sys2Proof.Machine
end

