-- ==== Sys2Proof/Machine/Operands.lean ====
section
/-! DEFINITION. The operand forms (30_encoding.md R82, R83): immediates are zero-extended, registers are
read whole, an index held in a register is used only when it is at most 15, and a sprite's cells are
addressed by the combined linear index. -/

namespace Sys2Proof.Machine

/-- NNN as an address: zero-extended to 16 bits (30_encoding.md R82). -/
def addrOf (nnn : BitVec 12) : Word := nnn.setWidth 16

/-- The key flag that V[x] names, if V[x] ≤ 15 (44_timers_keys.md R220). -/
def State.keyOf? (s : State) (x : RegIx) : Option Bool := s.key[(s.getV x).toNat]?

/-- The address of the glyph that V[x] names, if V[x] ≤ 15: `GLYPH_BASE + 5 * d`
(45_index_memory.md R242). -/
def State.glyphAddr? (s : State) (x : RegIx) : Option Word :=
  if (s.getV x).toNat ≤ 15 then some (BitVec.ofNat 16 (glyphBase + 5 * (s.getV x).toNat)) else none

/-- The number of keys that are down (44_timers_keys.md R223). -/
def State.pressedCount (s : State) : Nat := s.key.toList.countP id

/-- The three decimal digits of a byte, hundreds first (45_index_memory.md R243). -/
def bcdDigits (b : Byte) : List Byte :=
  [ BitVec.ofNat 8 (b.toNat / 100), BitVec.ofNat 8 (b.toNat / 10 % 10), BitVec.ofNat 8 (b.toNat % 10) ]

/-- V[0]..V[x], the x + 1 registers of Fx55 (45_index_memory.md R244, R247). -/
def State.regsUpTo (s : State) (x : RegIx) : List Byte := s.v.toList.take (x.val + 1)

/-- The cell of bit offset k in row r of a sprite at (x0, y0):
`((x0 + k) + (y0 + r) * 64) mod 2048` (43_display.md R202). -/
def cellOf (x0 y0 r k : Nat) : Nat := ((x0 + k) + (y0 + r) * 64) % 2048

/-- Bit k of a sprite byte, counted from the left: `(b >> (7 - k)) AND 1` (43_display.md R201). -/
def spriteBit (b : Byte) (k : Nat) : Bool := b.getLsbD (7 - k)

/-- The cells of the set bits of row r, left to right (43_display.md R201). -/
def rowCells (b : Byte) (x0 y0 r : Nat) : List Nat :=
  ((List.range 8).filter (spriteBit b)).map (cellOf x0 y0 r)

/-- The cells of the set bits of the n rows read at `ea(0)..ea(n-1)`, in drawing order
(43_display.md R201). -/
def State.spriteCells (s : State) (x0 y0 n : Nat) : List Nat :=
  (List.range n).flatMap fun r => rowCells (s.memRead (s.ea r)) x0 y0 r

end Sys2Proof.Machine
end

