-- ==== Sys2Proof/Machine/Control.lean ====
section
/-! DEFINITION. The control-flow instructions of 41_control.md. A meaning is the EXECUTE step: it sees
the pre-advanced pc (40_cycle.md R111; log 8). -/

namespace Sys2Proof.Machine

/-- Skip when the condition holds (40_cycle.md R115). -/
def State.skipIf (c : Bool) (s : State) : State := if c then s.skip else s

/-- SYS nnn: no effect (41_control.md R130). -/
def execSys (_nnn : BitVec 12) (s : State) : Result := .next s

/-- RET (41_control.md R131): `SP <- SP - 1; pc <- STACK[SP]`, STACK_UNDERFLOW at SP = 0. -/
def execRet (s : State) : Result :=
  if h : s.sp.val = 0 then raise .stackUnderflow s
  else .next { s with sp := ⟨s.sp.val - 1, by omega⟩, pc := s.stack[s.sp.val - 1]'(by omega) }

/-- JP nnn (41_control.md R132). -/
def execJp (nnn : BitVec 12) (s : State) : Result := .next (s.jump (addrOf nnn))

/-- CALL nnn (41_control.md R133): `STACK[SP] <- pc; SP <- SP + 1; pc <- NNN`, STACK_OVERFLOW at
SP = 16. -/
def execCall (nnn : BitVec 12) (s : State) : Result :=
  if h : s.sp.val < 16 then
    .next { s with stack := s.stack.set s.sp.val s.pc h, sp := ⟨s.sp.val + 1, by omega⟩, pc := addrOf nnn }
  else raise .stackOverflow s

/-- SE Vx, kk (41_control.md R134). -/
def execSeImm (x : RegIx) (kk : Byte) (s : State) : Result := .next (s.skipIf (s.getV x == kk))

/-- SE Vx, Vy (41_control.md R135). -/
def execSeReg (x y : RegIx) (s : State) : Result := .next (s.skipIf (s.getV x == s.getV y))

/-- SNE Vx, kk (41_control.md R136). -/
def execSneImm (x : RegIx) (kk : Byte) (s : State) : Result := .next (s.skipIf (s.getV x != kk))

/-- SNE Vx, Vy (41_control.md R137). -/
def execSneReg (x y : RegIx) (s : State) : Result := .next (s.skipIf (s.getV x != s.getV y))

/-- JP V0, nnn (41_control.md R138): `pc <- V[0] + NNN` in 16 bits, no modulo 4096. -/
def execJpV0 (nnn : BitVec 12) (s : State) : Result :=
  .next (s.jump (BitVec.ofNat 16 ((s.getV 0).toNat + nnn.toNat)))

end Sys2Proof.Machine
end

