-- ==== Sys2Proof/Machine/Display.lean ====
section
/-! DEFINITION. The display instructions of 43_display.md. -/

namespace Sys2Proof.Machine

/-- One set sprite bit on cell c: the collision is noted when the cell was 1, and the cell is toggled
(43_display.md R201). -/
def drawCell (p : Frame × Bool) (c : Nat) : Frame × Bool :=
  (p.1 ^^^ BitVec.twoPow 2048 c, p.2 || p.1.getLsbD c)

/-- The set sprite bits drawn one after the other; the second component is the collision, accumulated
from 0 (43_display.md R201, R203). -/
def drawCells (fb : Frame) (cells : List Nat) : Frame × Bool := cells.foldl drawCell (fb, false)

/-- CLS (43_display.md R200). -/
def execCls (s : State) : Result := .next { s with fb := 0, redraw := true }

/-- DRW Vx, Vy, n (43_display.md R201): the origin is read before VF is cleared (R204). -/
def execDrw (x y : RegIx) (n : BitVec 4) (s : State) : Result :=
  let drawn := drawCells s.fb (s.spriteCells (s.getV x).toNat (s.getV y).toNat n.toNat)
  .next { s.setV vf (boolByte drawn.2) with fb := drawn.1, redraw := true }

end Sys2Proof.Machine
end

