-- ==== Sys2Proof/Machine/IndexMemory.lean ====
section
/-! DEFINITION. The index-register and memory-transfer instructions of 45_index_memory.md. I is
unchanged by the transfers (decision D26). -/

namespace Sys2Proof.Machine

/-- LD I, nnn (45_index_memory.md R240). -/
def execLdI (nnn : BitVec 12) (s : State) : Result := .next { s with index := addrOf nnn }

/-- ADD I, Vx (45_index_memory.md R241): modulo 4096, no flag. -/
def execAddI (x : RegIx) (s : State) : Result :=
  .next { s with index := wrapAddr (s.index.toNat + (s.getV x).toNat) }

/-- LD F, Vx (45_index_memory.md R242): GLYPH_INDEX when V[X] > 15. -/
def execLdF (x : RegIx) (s : State) : Result :=
  match s.glyphAddr? x with
  | some a => .next { s with index := a }
  | none => raise .glyphIndex s

/-- LD B, Vx (45_index_memory.md R243). -/
def execLdB (x : RegIx) (s : State) : Result := storeBytes (bcdDigits (s.getV x)) s

/-- LD [I], Vx (45_index_memory.md R244). -/
def execLdMemVx (x : RegIx) (s : State) : Result := storeBytes (s.regsUpTo x) s

/-- The bytes at `ea(k)`, `ea(k+1)`, ... loaded into the registers of a list of indexes, in order. -/
def State.loadRegs (s : State) (xs : List RegIx) : State :=
  match xs with
  | [] => s
  | x :: rest => State.loadRegs (s.setV x (s.memRead (s.ea x.val))) rest

/-- LD Vx, [I] (45_index_memory.md R245): `for k in 0..X: V[k] <- MemRead(ea(k), 1)`. -/
def execLdVxMem (x : RegIx) (s : State) : Result :=
  .next (s.loadRegs ((List.finRange 16).take (x.val + 1)))

end Sys2Proof.Machine
end

