-- ==== Sys2Proof/Machine/KeysTimers.lean ====
section
/-! DEFINITION. The key and timer instructions of 44_timers_keys.md. -/

namespace Sys2Proof.Machine

/-- SKP Vx (44_timers_keys.md R220): KEY_INDEX when V[X] > 15. -/
def execSkp (x : RegIx) (s : State) : Result :=
  match s.keyOf? x with
  | some down => .next (s.skipIf down)
  | none => raise .keyIndex s

/-- SKNP Vx (44_timers_keys.md R221): KEY_INDEX when V[X] > 15. -/
def execSknp (x : RegIx) (s : State) : Result :=
  match s.keyOf? x with
  | some down => .next (s.skipIf (!down))
  | none => raise .keyIndex s

/-- LD Vx, DT (44_timers_keys.md R222). -/
def execLdVxDt (x : RegIx) (s : State) : Result := .next (s.setV x s.dt)

/-- LD Vx, K (44_timers_keys.md R223, R224): writes 1, never the key's index; with no key down V[X] is
kept and pc goes back to this opcode. -/
def execLdVxK (x : RegIx) (s : State) : Result :=
  .next (if s.pressedCount = 0 then s.rewind else s.setV x 1)

/-- LD DT, Vx (44_timers_keys.md R225). -/
def execLdDtVx (x : RegIx) (s : State) : Result := .next { s with dt := s.getV x }

/-- LD ST, Vx (44_timers_keys.md R226). -/
def execLdStVx (x : RegIx) (s : State) : Result := .next { s with st := s.getV x }

end Sys2Proof.Machine
end

