-- ==== Sys2Proof/Machine/Cycle.lean ====
section
/-! DEFINITION. The cycle FETCH, DECODE/EXECUTE, RENDER, TICK, POLL of 40_cycle.md. PACE changes no state
(R119; log 14). -/

namespace Sys2Proof.Machine

/-- The cycle's outputs, not yet produced (40_cycle.md R120; log 9). -/
def State.clearOutputs (s : State) : State := { s with renderOut := none, audioOut := false }

/-- The highest address a fetch may start at (40_cycle.md R110). -/
abbrev lastFetch : Nat := 0xFFE

/-- The opcode at pc, big-endian (40_cycle.md R110). -/
def State.fetchOp (s : State) : Word :=
  opcodeOfBytes (s.memRead s.pc.toNat) (s.memRead (s.pc.toNat + 1))

/-- RENDER (40_cycle.md R116). -/
def State.render (s : State) : State :=
  if s.redraw then { s with renderOut := some s.fb, redraw := false } else s

/-- A timer after one tick: one less, not below 0 (40_cycle.md R117). -/
def tickDown (t : Byte) : Byte := if t = 0 then 0 else t - 1

/-- TICK-TIMERS (40_cycle.md R117): the strobe fires when the decrement of ST makes it 0. -/
def State.tick (s : State) : State :=
  { s with dt := tickDown s.dt, st := tickDown s.st, audioOut := s.st == 1 }

/-- POLL-INPUT (40_cycle.md R118). -/
def State.poll (s : State) : State := { s.dropKeys with key := s.nextKeys }

/-- The cycle after EXECUTE (40_cycle.md R109). -/
def State.finishCycle (s : State) : State := s.render.tick.poll

/-- The state EXECUTE sees: no output yet, and the pc pre-advanced (40_cycle.md R111). -/
def State.beginCycle (s : State) : State := s.clearOutputs.preAdvance

/-- The rest of the cycle after a behaviour: a fault stops the cycle at once (40_cycle.md R121). -/
def afterExecute (r : Result) : Result :=
  match r with
  | .next s => if s.run = .faulted then .next s else .next s.finishCycle
  | .fault f => .fault f
  | .refused q => .refused q

/-- EXECUTE and the rest of the cycle for the opcode op; an unmatched opcode runs no behaviour
(40_cycle.md R112, R113; log 10). -/
def runOpcode (op : Word) (s : State) : Result :=
  match decode op with
  | .ok i => afterExecute (exec i s)
  | .error _ => afterExecute (.next s)

/-- One cycle in the RUNNING state (40_cycle.md R109, R114). -/
def cycle (s : State) : Result :=
  if lastFetch < s.pc.toNat then .next (s.clearOutputs.enterFaulted .fetchOutOfRange s.pc)
  else runOpcode s.fetchOp s.beginCycle

/-- The state with the opcode op stored at pc and pc + 1, high byte first (20_memory.md R55). -/
def State.placeOpcode (s : State) (op : Word) : State :=
  (s.memWrite s.pc.toNat (opHigh op)).memWrite (s.pc.toNat + 1) (opLow op)

end Sys2Proof.Machine
end

