-- ==== Sys2Proof/Machine/Step.lean ====
section
/-! DEFINITION. The step of the machine: boot in BOOT, one cycle in RUNNING, none in FAULTED
(10_state.md R35, 40_cycle.md R120). -/

namespace Sys2Proof.Machine

/-- One step (40_cycle.md R120; FAULTED has no further step, 60_exceptions.md R260). -/
def step (s : State) : Host.Outcome State Fault Refusal :=
  match s.run with
  | .boot => boot s
  | .running => cycle s
  | .faulted => .fault (.halted s.fault)

/-- The host's question: s with the table word w stored where the next step fetches. -/
def State.withFetchWord (s : State) (nbits w : Nat) : State := s.placeOpcode (tableOpcode nbits w)

end Sys2Proof.Machine
end

