-- ==== Sys2Proof/Safety.lean ====
section
/-! DEFINITION. The terms the claims are made in: the invariant of every reachable state, when a cycle
faults, which registers an instruction may write, and the shapes of an effect (one register written, pc
set, a fault taken) with everything else unchanged. -/

namespace Sys2Proof.Machine

/-! ## The invariant -/

/-- What every step keeps: memory is canonical and the reserved range holds its reset contents
(20_memory.md R59), I and the stack entries are addresses below 4096 (10_state.md R25, R26), pc is in
the range Bnnn can reach (10_state.md R24), and the fault record agrees with the run state
(10_state.md R36, 60_exceptions.md R264). -/
def State.Inv (s : State) : Prop :=
  Memory.wf s.mem = true ∧ (∀ c ∈ s.mem, 0x200 ≤ c.1) ∧
  s.index.toNat < 4096 ∧ s.pc.toNat ≤ 0x10FE ∧ (∀ k : Fin 16, s.stack[k].toNat < 4096) ∧
  (s.run = .running → s.fault = none) ∧
  (s.run = .faulted → s.fault ≠ none ∧ s.faultPc = s.pc)

/-! ## When a cycle faults -/

/-- The fault of the cycle that starts in s, by the conditions of 60_exceptions.md R261: FETCH first,
then the one condition of the instruction (R263). -/
def faultOf (s : State) : Option FaultKind :=
  if 0xFFE < s.pc.toNat then some .fetchOutOfRange
  else
    match decode s.fetchOp with
    | .ok (.call _) => if s.sp.val = 16 then some .stackOverflow else none
    | .ok .ret => if s.sp.val = 0 then some .stackUnderflow else none
    | .ok (.ldF x) => if 15 < (s.getV x).toNat then some .glyphIndex else none
    | .ok (.skp x) => if 15 < (s.getV x).toNat then some .keyIndex else none
    | .ok (.sknp x) => if 15 < (s.getV x).toNat then some .keyIndex else none
    | .ok (.ldB _) => if ∃ k : Fin 3, s.ea k.val < 0x200 then some .reservedWrite else none
    | .ok (.ldMemVx x) => if ∃ k : Fin (x.val + 1), s.ea k.val < 0x200 then some .reservedWrite else none
    | _ => none

/-! ## The scan of the table -/

/-- The behaviours of a list invoked one after the other, each on the state the ones before it left; a
fault ends the scan (40_cycle.md R112, R121). -/
def runInOrder (is : List Instr) (s : State) : Result :=
  match is with
  | [] => .next s
  | i :: rest =>
    match exec i s with
    | .next t => if t.run = .faulted then .next t else runInOrder rest t
    | .fault f => .fault f
    | .refused q => .refused q

/-- The table's entry n has this mask, pattern and behaviour, and every opcode that matches it decodes to
that behaviour. -/
def EncodedAs (n : Nat) (mask pattern : Word) (f : Word → Instr) : Prop :=
  (∃ r, dispatchTable[n - 1]? = some r ∧ r.mask = mask ∧ r.pattern = pattern ∧ ∀ op, r.behaviour op = f op) ∧
  ∀ op : Word, op &&& mask = pattern → decode op = .ok (f op)

/-- The bits of an opcode that its instruction does not ignore: the low nibble of 5xy0 and 9xy0 and Y of
8xy6 and 8xyE are ignored (30_encoding.md R83). -/
def keptBits (i : Instr) : Word :=
  match i with
  | .seReg _ _ => 0xFFF0
  | .sneReg _ _ => 0xFFF0
  | .shr _ => 0xFF0F
  | .shl _ => 0xFF0F
  | _ => 0xFFFF

/-! ## Which registers an instruction may write -/

/-- The registers an instruction writes, as its destination or as the flag (10_state.md R21, R22). -/
def destRegs (i : Instr) : List RegIx :=
  match i with
  | .ldImm x _ => [x]
  | .addImm x _ => [x]
  | .ldReg x _ => [x]
  | .orReg x _ => [x]
  | .andReg x _ => [x]
  | .xorReg x _ => [x]
  | .addReg x _ => [x, vf]
  | .subReg x _ => [x, vf]
  | .subnReg x _ => [x, vf]
  | .shr x => [x, vf]
  | .shl x => [x, vf]
  | .rnd x _ => [x]
  | .drw _ _ _ => [vf]
  | .ldVxDt x => [x]
  | .ldVxK x => [x]
  | .ldVxMem x => (List.finRange 16).take (x.val + 1)
  | _ => []

/-- The instructions that have a fault condition of their own (60_exceptions.md R261). -/
def canFault (i : Instr) : Bool :=
  match i with
  | .call _ | .ret | .ldF _ | .skp _ | .sknp _ | .ldB _ | .ldMemVx _ => true
  | .sys _ | .cls | .jp _ | .seImm _ _ | .seReg _ _ | .sneImm _ _ | .sneReg _ _ | .ldImm _ _ | .addImm _ _
  | .ldReg _ _ | .orReg _ _ | .andReg _ _ | .xorReg _ _ | .addReg _ _ | .subReg _ _ | .subnReg _ _ | .shr _
  | .shl _ | .ldI _ | .jpV0 _ | .rnd _ _ | .drw _ _ _ | .ldVxDt _ | .ldVxK _ | .ldDtVx _ | .ldStVx _ | .addI _
  | .ldVxMem _ => false

/-- The instructions whose effect writes the pre-advanced pc: jumps, CALL, RET, skips and the wait for a key
(40_cycle.md R111). -/
def movesPc (i : Instr) : Bool :=
  match i with
  | .ret | .jp _ | .call _ | .seImm _ _ | .seReg _ _ | .sneImm _ _ | .sneReg _ _ | .jpV0 _ | .skp _ | .sknp _
  | .ldVxK _ => true
  | .sys _ | .cls | .ldImm _ _ | .addImm _ _ | .ldReg _ _ | .orReg _ _ | .andReg _ _ | .xorReg _ _ | .addReg _ _
  | .subReg _ _ | .subnReg _ _ | .shr _ | .shl _ | .ldI _ | .rnd _ _ | .drw _ _ _ | .ldVxDt _ | .ldDtVx _
  | .ldStVx _ | .addI _ | .ldF _ | .ldB _ | .ldMemVx _ | .ldVxMem _ => false

/-! ## The glyph table at reset -/

/-- After reset the glyph of digit d is these bytes, row by row, at `GLYPH_BASE + 5 * d`
(20_memory.md R53, R54). -/
def GlyphAtReset (d : Nat) (rows : List Byte) : Prop :=
  ∀ r (h : r < rows.length), State.reset.memRead (Config.glyphBase.val + (5 * d + r)) = rows[r]

/-! ## Shapes of an effect -/

/-- The behaviour completes with V[x] holding n and nothing else changed. -/
def WritesReg (r : Result) (s : State) (x : RegIx) (n : Nat) : Prop :=
  ∃ t, r = .next t ∧ (t.getV x).toNat = n ∧ (∀ j, j ≠ x → t.getV j = s.getV j) ∧ t = { s with v := t.v }

/-- The behaviour completes with the result in V[x] and the flag in VF; where x is VF, VF_DEST_ORDER
decides which of the flag, the result and the AS_LISTED value VF holds (42_alu.md R173); nothing else
changed. -/
def WritesResultAndFlag (r : Result) (s : State) (x : RegIx) (result flag listed : Nat) : Prop :=
  ∃ t, r = .next t ∧ (x ≠ vf → (t.getV x).toNat = result ∧ (t.getV vf).toNat = flag) ∧
    (x = vf → Config.vfDestOrder = .flagLast → (t.getV vf).toNat = flag) ∧
    (x = vf → Config.vfDestOrder = .resultLast → (t.getV vf).toNat = result) ∧
    (x = vf → Config.vfDestOrder = .asListed → (t.getV vf).toNat = listed) ∧
    (∀ j, j ≠ x → j ≠ vf → t.getV j = s.getV j) ∧ t = { s with v := t.v }

/-- The behaviour completes with pc holding a and nothing else changed. -/
def SetsPc (r : Result) (s : State) (a : Nat) : Prop :=
  ∃ t, r = .next t ∧ t.pc.toNat = a ∧ t = { s with pc := t.pc }

/-- The behaviour raises the fault k: FAULTED, FAULT and FAULT_PC recorded, pc back at the opcode's
address, nothing else changed (40_cycle.md R121). -/
def TakesFault (r : Result) (s : State) (k : FaultKind) : Prop :=
  ∃ t, r = .next t ∧ t.run = .faulted ∧ t.fault = some k ∧
    t.pc.toNat = (s.pc.toNat + 4094) % 4096 ∧ t.faultPc = t.pc ∧
    t = { s with pc := t.pc, run := t.run, fault := t.fault, faultPc := t.faultPc }

/-- The behaviour stores bytes: byte k of the list at `ea(k)`, every other address as before, nothing but
memory changed. -/
def StoresBytes (r : Result) (s : State) (bytes : List Nat) : Prop :=
  ∃ t, r = .next t ∧ (∀ k (h : k < bytes.length), (t.memRead (s.ea k)).toNat = bytes[k]) ∧
    (∀ a, (∀ k < bytes.length, a ≠ s.ea k) → t.memRead a = s.memRead a) ∧ t = { s with mem := t.mem }

/-- Cell c lies under a set bit of the sprite of n rows read at `ea(0)..ea(n-1)` and drawn at (x0, y0)
(43_display.md R201, R202). -/
def SpriteCovers (s : State) (x0 y0 n c : Nat) : Prop :=
  ∃ r < n, ∃ k < 8, (s.memRead ((s.index.toNat + r) % 4096)).toNat / 2 ^ (7 - k) % 2 = 1 ∧
    c = ((x0 + k) + (y0 + r) * 64) % 2048

end Sys2Proof.Machine
end

