-- ==== Sys2Proof/Certificates/Slice0/Obligations.lean ====
section
/-! DEFINITION. The statements for the provers, from the numbered rules of the spec. Each docstring names
the rules it formalises, or says that it is derived and from what. -/

open Sys2Proof Sys2Proof.Machine

/-! ## Encoding and decoding -/

/-- Derived from 30_encoding.md R81, R84 and R91: decoding the encoded word of a well-formed instruction
gives the instruction back, with every operand. -/
def Obligations.DecodeOfEncodeIsTheInstruction : Prop :=
  ∀ i : Instr, WellFormed i = true → decode (encode i) = .ok i

/-- Derived from 30_encoding.md R83 and R91: the decoder answers well-formed instructions only, and
encoding what an opcode decodes to gives the opcode back with its ignored fields written 0, but for NNN of
SYS. R83 lists NNN of 0nnn as ignored too; that `keptBits` keeps it there is the model's choice (log 15),
so that every SYS word has its own term. -/
def Obligations.EncodeOfDecodeZeroesIgnoredFields : Prop :=
  ∀ (op : Word) (i : Instr), decode op = .ok i → WellFormed i = true ∧ encode i = op &&& keptBits i

/-- 30_encoding.md R89: for every word the list of matching entries in table order is empty, one entry, or
the pair (SYS, CLS) or (SYS, RET); and the decoder gives the same as the list (R90): its last entry. -/
def Obligations.MatchingEntriesAreTheDecodedInstruction : Prop :=
  ∀ op : Word,
    (op = 0x00E0#16 → matchesOf op = [.sys 0x0E0#12, .cls] ∧ decode op = .ok .cls) ∧
    (op = 0x00EE#16 → matchesOf op = [.sys 0x0EE#12, .ret] ∧ decode op = .ok .ret) ∧
    (op ≠ 0x00E0#16 → op ≠ 0x00EE#16 →
      (∃ i, matchesOf op = [i] ∧ decode op = .ok i) ∨ (∃ e, matchesOf op = [] ∧ decode op = .error e))

/-- 40_cycle.md R112 and R113, 30_encoding.md R86: invoking every matching entry in table order, each on
the state the ones before it left, is executing the decoded instruction, and nothing where no entry
matches; the cycle's EXECUTE is that scan, followed by the rest of the cycle. -/
def Obligations.ScanOfTheTableRunsTheDecodedInstruction : Prop :=
  ∀ (op : Word) (s : State), s.run = .running →
    (∀ i, decode op = .ok i → runInOrder (matchesOf op) s = exec i s) ∧
    (∀ e, decode op = .error e → runInOrder (matchesOf op) s = .next s) ∧
    runOpcode op s = afterExecute (runInOrder (matchesOf op) s)

/-- Derived from 30_encoding.md section 4 (its "Every other 16-bit word matches at least one entry" is
marked as an inference there): the opcodes that match no entry are exactly the listed ones of the classes
8, E and F, and a cycle of one changes what a cycle without a behaviour changes: the pre-advance, then
render, tick and poll. -/
def Obligations.UnmatchedOpcodesAreExactlyTheListed : Prop :=
  (∀ op : Word, matchesOf op = [] ↔
    (op.toNat / 4096 = 0x8 ∧ op.toNat % 16 ∈ [0x8, 0x9, 0xA, 0xB, 0xC, 0xD, 0xF]) ∨
    (op.toNat / 4096 = 0xE ∧ op.toNat % 256 ∉ [0x9E, 0xA1]) ∨
    (op.toNat / 4096 = 0xF ∧
      op.toNat % 256 ∉ [0x07, 0x0A, 0x15, 0x18, 0x1E, 0x29, 0x33, 0x55, 0x65])) ∧
  (∀ s : State, s.run = .running → s.pc.toNat ≤ 0xFFE → matchesOf s.fetchOp = [] →
    ∃ u : State, u.pc.toNat = (s.pc.toNat + 2) % 4096 ∧
      u = { s with pc := u.pc, renderOut := none, audioOut := false } ∧
      step s = .next u.finishCycle)

/-- A sanity statement: words written out from the encodings of 30_encoding.md R84, one for each family,
decode to the instructions they stand for. -/
def Obligations.SampleWordsDecode : Prop :=
  decodeTableWord 16 0x1ABC = some (.jp 0xABC) ∧
  decodeTableWord 16 0x5120 = some (.seReg 1 2) ∧
  decodeTableWord 16 0x8AB7 = some (.subnReg 10 11) ∧
  decodeTableWord 16 0xD12F = some (.drw 1 2 15) ∧
  decodeTableWord 16 0xE5A1 = some (.sknp 5) ∧
  decodeTableWord 16 0xF265 = some (.ldVxMem 2) ∧
  decodeTableWord 16 0x8018 = none

/-! ## The cycle -/

/-- Derived from 40_cycle.md R109, R111, R114 and R121: in RUNNING, when the two bytes at pc decode to an
instruction, the step runs exactly it, on the state with the pre-advanced pc and no output yet; after it
the cycle goes on with render, tick and poll, unless it faulted. -/
def Obligations.StepRunsTheDecodedInstruction : Prop :=
  ∀ (s : State) (i : Instr), s.run = .running → s.pc.toNat ≤ 0xFFE → decode s.fetchOp = .ok i →
    ∃ u : State, u.pc.toNat = (s.pc.toNat + 2) % 4096 ∧
      u = { s with pc := u.pc, renderOut := none, audioOut := false } ∧
      (∀ t, exec i u = .next t → t.run ≠ .faulted → step s = .next t.finishCycle) ∧
      (∀ t, exec i u = .next t → t.run = .faulted → step s = .next t)

/-- 40_cycle.md R110: FETCH reads the opcode big-endian at a = pc, even or odd, and above 0xFFE it raises
FETCH_OUT_OF_RANGE, which leaves everything else as it was. -/
def Obligations.FetchReadsBigEndianOrFaults : Prop :=
  ∀ s : State, s.run = .running →
    (s.pc.toNat ≤ 0xFFE →
      s.fetchOp.toNat = (s.memRead s.pc.toNat).toNat * 256 + (s.memRead (s.pc.toNat + 1)).toNat ∧
      step s = runOpcode s.fetchOp s.beginCycle) ∧
    (0xFFE < s.pc.toNat →
      step s = .next { s with
        run := .faulted, fault := some .fetchOutOfRange, faultPc := s.pc
        renderOut := none, audioOut := false })

/-- 40_cycle.md R116 and R117, with R118's delivery of the host's flags: after an EXECUTE that did not
fault, RENDER hands over the framebuffer exactly when REDRAW is set and clears it, TICK takes one from
each nonzero timer and strobes when that makes ST 0, and POLL gives KEY whatever 16 flags the host
supplies (the list `keyInput`, the model's form of the input, log 5). Nothing else changes. -/
def Obligations.CycleEndsWithRenderTickPoll : Prop :=
  ∀ s : State, s.run ≠ .faulted →
    ∃ t, afterExecute (.next s) = .next t ∧ t.redraw = false ∧
      (s.redraw = true → t.renderOut = some s.fb) ∧ (s.redraw = false → t.renderOut = s.renderOut) ∧
      (s.dt ≠ 0 → t.dt.toNat + 1 = s.dt.toNat) ∧ (s.dt = 0 → t.dt = 0) ∧
      (s.st ≠ 0 → t.st.toNat + 1 = s.st.toNat) ∧ (s.st = 0 → t.st = 0) ∧
      (t.audioOut = true ↔ s.st ≠ 0 ∧ t.st = 0) ∧
      (∀ ks rest, s.keyInput = ks :: rest →
        t.key = ks ∧ t.keyInput = rest ∧ t.pollCount = s.pollCount) ∧
      t = { s with
        redraw := t.redraw, renderOut := t.renderOut, dt := t.dt, st := t.st, audioOut := t.audioOut
        key := t.key, keyInput := t.keyInput, pollCount := t.pollCount }

/-! ## Faults -/

/-- 60_exceptions.md R264 and 40_cycle.md R121 (FAULTED is a next state here, log 7): a faulting cycle
leaves the state at its start, with pc = a, plus FAULTED, FAULT and FAULT_PC = a; it has no output
(nothing was rendered, ticked or polled); and FAULTED has no further step. -/
def Obligations.FaultsArePreciseAndHalting : Prop :=
  ∀ s t : State, s.run = .running → step s = .next t → t.run = .faulted →
    (∃ k, t = { s with
      run := .faulted, fault := some k, faultPc := s.pc, renderOut := none, audioOut := false }) ∧
    (∀ u, step t ≠ .next u)

/-- 60_exceptions.md R261: a cycle from RUNNING faults exactly under the conditions of the table of fault
kinds, FETCH first, with that kind and FAULT_PC = a; in every other case it completes in RUNNING. The six
codes are those of the table. -/
def Obligations.FaultsHappenExactlyAsTabled : Prop :=
  (∀ s : State, s.run = .running →
    (∀ k, faultOf s = some k →
      ∃ t, step s = .next t ∧ t.run = .faulted ∧ t.fault = some k ∧ t.faultPc = s.pc) ∧
    (faultOf s = none → ∃ t, step s = .next t ∧ t.run = .running ∧ t.fault = s.fault)) ∧
  [FaultKind.fetchOutOfRange, .stackOverflow, .stackUnderflow, .glyphIndex, .keyIndex,
    .reservedWrite].map FaultKind.code = [1, 2, 3, 4, 5, 6]

/-! ## Invariants and ranges -/

/-- The invariant holds at reset; derived from 10_state.md R37 (the zero values are the model's
RESET_FILL, log 4). -/
def Obligations.InvariantHoldsAtReset : Prop := State.reset.Inv

/-- Every step keeps the invariant; derived from 10_state.md R24, R25, R26, R36 and 20_memory.md R59. -/
def Obligations.EveryStepKeepsTheInvariant : Prop :=
  ∀ s t : State, s.Inv → step s = .next t → t.Inv

/-- 10_state.md R24: every instruction except Bnnn leaves pc in [0, 4095], Bnnn may leave it in [0,
0x10FE] (V[0] + NNN with no modulo), and a fetch above 0xFFE faults. The premises (a pre-advanced pc and
stack entries below 4096) are kept by EveryStepKeepsTheInvariant. -/
def Obligations.PcStaysInItsRange : Prop :=
  (∀ (i : Instr) (s t : State), s.pc.toNat < 4096 → (∀ k : Fin 16, s.stack[k].toNat < 4096) →
    exec i s = .next t →
      ((∀ nnn, i ≠ .jpV0 nnn) → t.pc.toNat < 4096) ∧ t.pc.toNat ≤ 0x10FE) ∧
  (∀ (nnn : BitVec 12) (s : State),
    SetsPc (exec (.jpV0 nnn) s) s ((s.getV 0).toNat + nnn.toNat)) ∧
  (∀ s : State, s.run = .running → 0xFFE < s.pc.toNat →
    ∃ t, step s = .next t ∧ t.run = .faulted ∧ t.fault = some .fetchOutOfRange)

/-- Derived from 10_state.md R25: an instruction either leaves I unchanged or stores a value in [0, 4095],
and only Annn, Fx1E and Fx29 change I. -/
def Obligations.IndexWritesStayBelow4096 : Prop :=
  ∀ (i : Instr) (s t : State), exec i s = .next t → t.index ≠ s.index →
    t.index.toNat < 4096 ∧ ((∃ nnn, i = .ldI nnn) ∨ (∃ x, i = .addI x) ∨ (∃ x, i = .ldF x))

/-- Derived from 20_memory.md R53 and R59: no cycle changes a byte of the reserved range, so the glyph
table is read-only. -/
def Obligations.ReservedRangeIsNeverWritten : Prop :=
  ∀ s t : State, s.run = .running → step s = .next t → ∀ a < 0x200, t.memRead a = s.memRead a

/-- Derived from 10_state.md R21, R22, R23, R25 to R29, R31, R35 and R36, 20_memory.md R51 and R52 and
60_exceptions.md R261: each piece of state is changed by the instructions the spec names and by no other.
The general registers are treated here as one piece, which an instruction without a destination leaves as
it was; which of them an instruction may change says RegistersChangeOnlyAsDestinations. The pc is the
pre-advanced one: an instruction that neither transfers control nor faults leaves it. -/
def Obligations.EachStateHasItsOwnWriters : Prop :=
  ∀ (i : Instr) (s t : State), exec i s = .next t →
    (destRegs i = [] → t.v = s.v) ∧
    (movesPc i = false → canFault i = false → t.pc = s.pc) ∧
    ((∀ nnn, i ≠ .ldI nnn) → (∀ x, i ≠ .addI x) → (∀ x, i ≠ .ldF x) → t.index = s.index) ∧
    (canFault i = false → t.run = s.run ∧ t.fault = s.fault ∧ t.faultPc = s.faultPc) ∧
    ((∀ x, i ≠ .ldB x) → (∀ x, i ≠ .ldMemVx x) → t.mem = s.mem) ∧
    (i ≠ .cls → (∀ x y n, i ≠ .drw x y n) → t.fb = s.fb ∧ t.redraw = s.redraw) ∧
    (i ≠ .ret → (∀ nnn, i ≠ .call nnn) → t.sp = s.sp ∧ t.stack = s.stack) ∧
    ((∀ x, i ≠ .ldDtVx x) → t.dt = s.dt) ∧ ((∀ x, i ≠ .ldStVx x) → t.st = s.st) ∧
    ((∀ x kk, i ≠ .rnd x kk) → t.drawInput = s.drawInput ∧ t.drawCount = s.drawCount) ∧
    t.key = s.key ∧ t.keyInput = s.keyInput ∧ t.pollCount = s.pollCount ∧ t.loader = s.loader ∧
    t.renderOut = s.renderOut ∧ t.audioOut = s.audioOut

/-- Derived from 10_state.md R21 and R22: an instruction changes no general register but its destination,
and VF where it writes a flag. -/
def Obligations.RegistersChangeOnlyAsDestinations : Prop :=
  ∀ (i : Instr) (s t : State), exec i s = .next t →
    ∀ j, j ∉ destRegs i → t.getV j = s.getV j

/-! ## Control flow -/

/-- 41_control.md R130: SYS does nothing for every nnn, and its entry matches 0x00E0 and 0x00EE too, where
CLS or RET runs after it; a cycle of it advances pc by 2 and nothing else but render, tick and poll
happens. -/
def Obligations.SysIsANoOp : Prop :=
  (∀ (nnn : BitVec 12) (s : State), ∃ t, exec (.sys nnn) s = .next t ∧ t = s) ∧
  (∃ r, dispatchTable[0]? = some r ∧ r.mask = 0xF000#16 ∧ r.pattern = 0x0000#16 ∧
    ∀ op, r.behaviour op = .sys (opNNN op)) ∧
  (∀ op : Word, op &&& 0xF000#16 = 0x0000#16 → op ≠ 0x00E0#16 → op ≠ 0x00EE#16 →
    decode op = .ok (.sys (opNNN op))) ∧
  matchesOf 0x00E0#16 = [.sys 0x0E0#12, .cls] ∧ matchesOf 0x00EE#16 = [.sys 0x0EE#12, .ret] ∧
  (∀ (nnn : BitVec 12) (s : State), s.run = .running → s.pc.toNat ≤ 0xFFE →
    decode s.fetchOp = .ok (.sys nnn) →
      ∃ u : State, u.pc.toNat = (s.pc.toNat + 2) % 4096 ∧
        u = { s with pc := u.pc, renderOut := none, audioOut := false } ∧
        step s = .next u.finishCycle)

/-- 41_control.md R131: RET decrements SP and takes pc from the entry it then names, which keeps its
value; at SP = 0 it raises STACK_UNDERFLOW. -/
def Obligations.RetPopsOrUnderflows : Prop :=
  EncodedAs 3 0xFFFF#16 0x00EE#16 (fun _ => .ret) ∧
  (∀ (s : State) (k : Fin 16), s.sp.val = k.val + 1 →
    ∃ t, exec .ret s = .next t ∧ t.sp.val = k.val ∧ t.pc = s.stack[k] ∧
      t = { s with sp := t.sp, pc := t.pc }) ∧
  (∀ s : State, s.sp.val = 0 → TakesFault (exec .ret s) s .stackUnderflow)

/-- 41_control.md R132: JP sets pc to NNN, whatever the pre-advanced pc was. A cycle of it from RUNNING
completes at NNN with each timer one lower and not below 0; a JP to its own address leaves pc and the
opcode there, so that the next cycle is the same JP; and a target above 0xFFE faults at the next fetch. -/
def Obligations.JumpSetsPcToItsTarget : Prop :=
  EncodedAs 4 0xF000#16 0x1000#16 (fun op => .jp (opNNN op)) ∧
  (∀ (nnn : BitVec 12) (s : State), SetsPc (exec (.jp nnn) s) s nnn.toNat) ∧
  (∀ (nnn : BitVec 12) (s : State), s.run = .running → s.pc.toNat ≤ 0xFFE →
    decode s.fetchOp = .ok (.jp nnn) →
      ∃ t, step s = .next t ∧ t.run = .running ∧ t.pc.toNat = nnn.toNat ∧ t.v = s.v ∧ t.mem = s.mem ∧
        t.dt.toNat = s.dt.toNat - 1 ∧ t.st.toNat = s.st.toNat - 1 ∧
        (nnn.toNat = s.pc.toNat → t.pc = s.pc ∧ t.fetchOp = s.fetchOp) ∧
        (0xFFE < nnn.toNat →
          ∃ u, step t = .next u ∧ u.run = .faulted ∧ u.fault = some .fetchOutOfRange ∧ u.faultPc = t.pc))

/-- 41_control.md R133: CALL pushes the pre-advanced pc, increments SP and sets pc to NNN; at SP = 16 it
raises STACK_OVERFLOW. -/
def Obligations.CallPushesOrOverflows : Prop :=
  EncodedAs 5 0xF000#16 0x2000#16 (fun op => .call (opNNN op)) ∧
  (∀ (nnn : BitVec 12) (s : State) (k : Fin 16), s.sp.val = k.val →
    ∃ t, exec (.call nnn) s = .next t ∧ t.stack[k] = s.pc ∧
      (∀ j : Fin 16, j ≠ k → t.stack[j] = s.stack[j]) ∧ t.sp.val = k.val + 1 ∧
      t.pc.toNat = nnn.toNat ∧ t = { s with stack := t.stack, sp := t.sp, pc := t.pc }) ∧
  (∀ (nnn : BitVec 12) (s : State), s.sp.val = 16 → TakesFault (exec (.call nnn) s) s .stackOverflow)

/-- Derived from 41_control.md R131, R133 and 95_test_vectors.md S10: for depths 1 to 16, a RET in any
state that has the stack the CALL left restores the pc the CALL saw and its SP. -/
def Obligations.RetAfterCallRestoresPc : Prop :=
  ∀ (nnn : BitVec 12) (s t u : State), s.sp.val < 16 → exec (.call nnn) s = .next t →
    u.stack = t.stack → u.sp = t.sp →
      ∃ w, exec .ret u = .next w ∧ w.pc = s.pc ∧ w.sp = s.sp

/-- 41_control.md R134, R135, R136 and R137 with 40_cycle.md R115: each of the four skips adds 2 to the
pre-advanced pc, modulo 4096, exactly when its condition holds, and changes nothing else. -/
def Obligations.ComparisonSkipsAddTwo : Prop :=
  EncodedAs 6 0xF000#16 0x3000#16 (fun op => .seImm (opX op) (opKK op)) ∧
  EncodedAs 7 0xF000#16 0x5000#16 (fun op => .seReg (opX op) (opY op)) ∧
  EncodedAs 8 0xF000#16 0x4000#16 (fun op => .sneImm (opX op) (opKK op)) ∧
  EncodedAs 9 0xF000#16 0x9000#16 (fun op => .sneReg (opX op) (opY op)) ∧
  ∀ (x y : RegIx) (kk : Byte) (s : State),
    SetsPc (exec (.seImm x kk) s) s
      (if (s.getV x).toNat = kk.toNat then (s.pc.toNat + 2) % 4096 else s.pc.toNat) ∧
    SetsPc (exec (.seReg x y) s) s
      (if (s.getV x).toNat = (s.getV y).toNat then (s.pc.toNat + 2) % 4096 else s.pc.toNat) ∧
    SetsPc (exec (.sneImm x kk) s) s
      (if (s.getV x).toNat ≠ kk.toNat then (s.pc.toNat + 2) % 4096 else s.pc.toNat) ∧
    SetsPc (exec (.sneReg x y) s) s
      (if (s.getV x).toNat ≠ (s.getV y).toNat then (s.pc.toNat + 2) % 4096 else s.pc.toNat)

/-- 41_control.md R138: Bnnn sets pc to the 16-bit sum V[0] + NNN, with no modulo 4096, and a sum above
0xFFE faults at the next fetch. -/
def Obligations.IndexedJumpAddsV0 : Prop :=
  EncodedAs 22 0xF000#16 0xB000#16 (fun op => .jpV0 (opNNN op)) ∧
  (∀ (nnn : BitVec 12) (s : State),
    SetsPc (exec (.jpV0 nnn) s) s ((s.getV 0).toNat + nnn.toNat)) ∧
  (∀ (nnn : BitVec 12) (s t : State), exec (.jpV0 nnn) s = .next t → t.run = .running →
    0xFFE < (s.getV 0).toNat + nnn.toNat →
      ∃ u, step t = .next u ∧ u.run = .faulted ∧ u.fault = some .fetchOutOfRange)

/-! ## Registers and ALU -/

/-- 42_alu.md R160 to R165: the loads, the addition of an immediate and the logical operations write V[X]
and nothing else, VF included. -/
def Obligations.LoadsAndLogicWriteOneRegister : Prop :=
  EncodedAs 10 0xF000#16 0x6000#16 (fun op => .ldImm (opX op) (opKK op)) ∧
  EncodedAs 11 0xF000#16 0x7000#16 (fun op => .addImm (opX op) (opKK op)) ∧
  EncodedAs 12 0xF00F#16 0x8000#16 (fun op => .ldReg (opX op) (opY op)) ∧
  EncodedAs 13 0xF00F#16 0x8001#16 (fun op => .orReg (opX op) (opY op)) ∧
  EncodedAs 14 0xF00F#16 0x8002#16 (fun op => .andReg (opX op) (opY op)) ∧
  EncodedAs 15 0xF00F#16 0x8003#16 (fun op => .xorReg (opX op) (opY op)) ∧
  ∀ (x y : RegIx) (kk : Byte) (s : State),
    WritesReg (exec (.ldImm x kk) s) s x kk.toNat ∧
    WritesReg (exec (.addImm x kk) s) s x (((s.getV x).toNat + kk.toNat) % 256) ∧
    WritesReg (exec (.ldReg x y) s) s x (s.getV y).toNat ∧
    WritesReg (exec (.orReg x y) s) s x ((s.getV x).toNat ||| (s.getV y).toNat) ∧
    WritesReg (exec (.andReg x y) s) s x ((s.getV x).toNat &&& (s.getV y).toNat) ∧
    WritesReg (exec (.xorReg x y) s) s x ((s.getV x).toNat ^^^ (s.getV y).toNat)

/-- 42_alu.md R166, R167 and R168: the sum modulo 256 with the carry, and the two differences modulo 256
with the strict not-borrow. Where X is VF itself, VF_DEST_ORDER decides; it is an open constant of the
model (log 3). -/
def Obligations.AddAndSubtractWriteResultAndFlag : Prop :=
  EncodedAs 16 0xF00F#16 0x8004#16 (fun op => .addReg (opX op) (opY op)) ∧
  EncodedAs 17 0xF00F#16 0x8005#16 (fun op => .subReg (opX op) (opY op)) ∧
  EncodedAs 18 0xF00F#16 0x8007#16 (fun op => .subnReg (opX op) (opY op)) ∧
  ∀ (x y : RegIx) (s : State) (a b : Nat), a = (s.getV x).toNat → b = (s.getV y).toNat →
    WritesResultAndFlag (exec (.addReg x y) s) s x ((a + b) % 256)
      (if 255 < a + b then 1 else 0) (if 255 < a + b then 1 else 0) ∧
    WritesResultAndFlag (exec (.subReg x y) s) s x ((256 + a - b) % 256)
      (if b < a then 1 else 0) (if b < a then 1 else 0) ∧
    WritesResultAndFlag (exec (.subnReg x y) s) s x ((256 + b - a) % 256)
      (if a < b then 1 else 0) (if a < b then 1 else 0)

/-- 42_alu.md R169 and R170: the shifts of V[X] by one, with the bit shifted out in VF; Y is ignored.
Where X is VF itself, VF_DEST_ORDER decides; it is an open constant of the model (log 3). -/
def Obligations.ShiftsWriteResultAndShiftedBit : Prop :=
  EncodedAs 19 0xF00F#16 0x8006#16 (fun op => .shr (opX op)) ∧
  EncodedAs 20 0xF00F#16 0x800E#16 (fun op => .shl (opX op)) ∧
  ∀ (x : RegIx) (s : State) (a : Nat), a = (s.getV x).toNat →
    WritesResultAndFlag (exec (.shr x) s) s x (a / 2) (a % 2) 0 ∧
    WritesResultAndFlag (exec (.shl x) s) s x (a * 2 % 256) (a / 128) (2 * (a / 128))

/-- 42_alu.md R171: RND writes a draw r in [0, 254] AND KK, for whatever draw the host supplies, and
consumes it; nothing else changes. The host's draws are the list `drawInput`; where it is empty the draw
is a free value of the same range (the model's form of the free input, log 6). -/
def Obligations.RandomWritesABoundedDraw : Prop :=
  EncodedAs 23 0xF000#16 0xC000#16 (fun op => .rnd (opX op) (opKK op)) ∧
  (∀ (x : RegIx) (kk : Byte) (s : State),
    ∃ t, exec (.rnd x kk) s = .next t ∧ (∃ r, r ≤ 254 ∧ (t.getV x).toNat = r &&& kk.toNat) ∧
      (∀ j, j ≠ x → t.getV j = s.getV j) ∧
      t = { s with v := t.v, drawInput := t.drawInput, drawCount := t.drawCount }) ∧
  (∀ (x : RegIx) (kk : Byte) (s : State) (r : Fin 255) (rest : List (Fin 255)),
    s.drawInput = r :: rest →
      ∃ t, exec (.rnd x kk) s = .next t ∧ (t.getV x).toNat = r.val &&& kk.toNat ∧
        t.drawInput = rest ∧ t.drawCount = s.drawCount)

/-! ## Display -/

/-- 43_display.md R200: CLS clears every cell and sets REDRAW. -/
def Obligations.ClsClearsEveryCell : Prop :=
  EncodedAs 2 0xFFFF#16 0x00E0#16 (fun _ => .cls) ∧
  ∀ s : State, ∃ t, exec .cls s = .next t ∧ (∀ c, t.fb.getLsbD c = false) ∧ t.redraw = true ∧
    t = { s with fb := t.fb, redraw := t.redraw }

/-- 43_display.md R201, R202 and R203: DRW toggles exactly the cells under the sprite's set bits, at the
combined linear index, from the origin read before VF is cleared; VF ends 1 exactly when some such cell
was 1; REDRAW is set; nothing else changes. -/
def Obligations.DrawTogglesTheSpriteCells : Prop :=
  EncodedAs 24 0xF000#16 0xD000#16 (fun op => .drw (opX op) (opY op) (opN op)) ∧
  ∀ (x y : RegIx) (n : BitVec 4) (s : State) (x0 y0 : Nat),
    x0 = (s.getV x).toNat → y0 = (s.getV y).toNat →
    ∃ t, exec (.drw x y n) s = .next t ∧
      (∀ c, SpriteCovers s x0 y0 n.toNat c → t.fb.getLsbD c = !s.fb.getLsbD c) ∧
      (∀ c, ¬ SpriteCovers s x0 y0 n.toNat c → t.fb.getLsbD c = s.fb.getLsbD c) ∧
      ((∃ c, SpriteCovers s x0 y0 n.toNat c ∧ s.fb.getLsbD c = true) → t.getV vf = 1) ∧
      ((¬ ∃ c, SpriteCovers s x0 y0 n.toNat c ∧ s.fb.getLsbD c = true) → t.getV vf = 0) ∧
      (∀ j, j ≠ vf → t.getV j = s.getV j) ∧ t.redraw = true ∧
      t = { s with v := t.v, fb := t.fb, redraw := t.redraw }

/-- Derived (the spec's own inference "from rule R201 and rule R203", 43_display.md section 1, the draw
twice): a second DRW of the same sprite at the same place restores FB; on an empty FB the first leaves
exactly the sprite's set bits lit with VF = 0, and the second clears them with VF = 1 when the sprite has
a set bit. -/
def Obligations.DrawingTwiceRestoresTheFramebuffer : Prop :=
  ∀ (x y : RegIx) (n : BitVec 4) (s t u w : State) (x0 y0 : Nat),
    x0 = (s.getV x).toNat → y0 = (s.getV y).toNat → exec (.drw x y n) s = .next t →
    u.fb = t.fb → u.index = s.index → u.getV x = s.getV x → u.getV y = s.getV y →
    (∀ r < n.toNat, u.memRead (s.ea r) = s.memRead (s.ea r)) → exec (.drw x y n) u = .next w →
      w.fb = s.fb ∧
      (s.fb = 0 →
        (∀ c, t.fb.getLsbD c = true ↔ SpriteCovers s x0 y0 n.toNat c) ∧ t.getV vf = 0 ∧ w.fb = 0 ∧
        ((∃ c, SpriteCovers s x0 y0 n.toNat c) → w.getV vf = 1))

/-- Derived from 20_memory.md R51 and 10_state.md R29: no instruction but DRW reads the framebuffer. Two
states that differ in it alone give results that differ in it alone. -/
def Obligations.OnlyDrawReadsTheFramebuffer : Prop :=
  ∀ (i : Instr) (s : State) (f : Frame), (∀ x y n, i ≠ .drw x y n) →
    ∃ t g, exec i s = .next t ∧ exec i { s with fb := f } = .next { t with fb := g }

/-! ## Keys and timers -/

/-- 44_timers_keys.md R220 and R221: SKP and SKNP test the key flag that V[X] names, and above 15 they
raise KEY_INDEX. -/
def Obligations.KeySkipsTestTheNamedKey : Prop :=
  EncodedAs 25 0xF0FF#16 0xE09E#16 (fun op => .skp (opX op)) ∧
  EncodedAs 26 0xF0FF#16 0xE0A1#16 (fun op => .sknp (opX op)) ∧
  (∀ (x : RegIx) (s : State) (k : Fin 16), (s.getV x).toNat = k.val →
    SetsPc (exec (.skp x) s) s
      (if s.key[k] = true then (s.pc.toNat + 2) % 4096 else s.pc.toNat) ∧
    SetsPc (exec (.sknp x) s) s
      (if s.key[k] = false then (s.pc.toNat + 2) % 4096 else s.pc.toNat)) ∧
  (∀ (x : RegIx) (s : State), 15 < (s.getV x).toNat →
    TakesFault (exec (.skp x) s) s .keyIndex ∧ TakesFault (exec (.sknp x) s) s .keyIndex)

/-- 44_timers_keys.md R223: with some key down Fx0A writes 1 to V[X], with none it writes no register and
takes 2 from pc, modulo 4096. -/
def Obligations.WaitForKeyWritesOneOrRewinds : Prop :=
  EncodedAs 28 0xF0FF#16 0xF00A#16 (fun op => .ldVxK (opX op)) ∧
  ∀ (x : RegIx) (s : State),
    ((∃ k : Fin 16, s.key[k] = true) → WritesReg (exec (.ldVxK x) s) s x 1) ∧
    ((∀ k : Fin 16, s.key[k] = false) →
      SetsPc (exec (.ldVxK x) s) s ((s.pc.toNat + 4094) % 4096))

/-- Derived from 44_timers_keys.md R224 and 70_reset_and_hazards.md R299: while no key is down, the cycle
of an Fx0A leaves pc and the registers as they were, and the timers tick. -/
def Obligations.WaitForKeyRepeatsWhileTimersTick : Prop :=
  ∀ (s : State) (x : RegIx), s.run = .running → s.pc.toNat ≤ 0xFFE →
    decode s.fetchOp = .ok (.ldVxK x) → (∀ k : Fin 16, s.key[k] = false) →
      ∃ t, step s = .next t ∧ t.run = .running ∧ t.pc = s.pc ∧ t.v = s.v ∧ t.mem = s.mem ∧
        t.dt.toNat = s.dt.toNat - 1 ∧ t.st.toNat = s.st.toNat - 1

/-- 44_timers_keys.md R222, R225 and R226: the transfers between V[X] and the timers, and, for a whole
cycle, the tick that follows them (70_reset_and_hazards.md R300): the value read is the one before the
tick, a value written is one less at the end of the cycle, and the strobe fires exactly when ST is written
1. -/
def Obligations.TimerTransfersAreTickedInTheirCycle : Prop :=
  EncodedAs 27 0xF0FF#16 0xF007#16 (fun op => .ldVxDt (opX op)) ∧
  EncodedAs 29 0xF0FF#16 0xF015#16 (fun op => .ldDtVx (opX op)) ∧
  EncodedAs 30 0xF0FF#16 0xF018#16 (fun op => .ldStVx (opX op)) ∧
  (∀ (x : RegIx) (s : State),
    WritesReg (exec (.ldVxDt x) s) s x s.dt.toNat ∧
    (∃ t, exec (.ldDtVx x) s = .next t ∧ t.dt = s.getV x ∧ t = { s with dt := t.dt }) ∧
    (∃ t, exec (.ldStVx x) s = .next t ∧ t.st = s.getV x ∧ t = { s with st := t.st })) ∧
  (∀ (x : RegIx) (s : State), s.run = .running → s.pc.toNat ≤ 0xFFE →
    (decode s.fetchOp = .ok (.ldVxDt x) →
      ∃ t, step s = .next t ∧ t.getV x = s.dt ∧ t.dt.toNat = s.dt.toNat - 1) ∧
    (decode s.fetchOp = .ok (.ldDtVx x) →
      ∃ t, step s = .next t ∧ t.dt.toNat = (s.getV x).toNat - 1) ∧
    (decode s.fetchOp = .ok (.ldStVx x) →
      ∃ t, step s = .next t ∧ t.st.toNat = (s.getV x).toNat - 1 ∧
        (t.audioOut = true ↔ s.getV x = 1)))

/-! ## Index register and memory transfers -/

/-- 45_index_memory.md R240 and R241: I takes NNN, or the sum with V[X] modulo 4096; VF and everything
else keep their values. -/
def Obligations.IndexLoadAndAdd : Prop :=
  EncodedAs 21 0xF000#16 0xA000#16 (fun op => .ldI (opNNN op)) ∧
  EncodedAs 31 0xF0FF#16 0xF01E#16 (fun op => .addI (opX op)) ∧
  ∀ (nnn : BitVec 12) (x : RegIx) (s : State),
    (∃ t, exec (.ldI nnn) s = .next t ∧ t.index.toNat = nnn.toNat ∧ t = { s with index := t.index }) ∧
    (∃ t, exec (.addI x) s = .next t ∧ t.index.toNat = (s.index.toNat + (s.getV x).toNat) % 4096 ∧
      t = { s with index := t.index })

/-- 45_index_memory.md R242: I takes the address of the glyph of the digit V[X], inside the reserved
range, and above 15 the instruction raises GLYPH_INDEX. -/
def Obligations.GlyphAddressOrFault : Prop :=
  EncodedAs 32 0xF0FF#16 0xF029#16 (fun op => .ldF (opX op)) ∧
  (∀ (x : RegIx) (s : State), (s.getV x).toNat ≤ 15 →
    ∃ t, exec (.ldF x) s = .next t ∧
      t.index.toNat = Config.glyphBase.val + 5 * (s.getV x).toNat ∧ t.index.toNat < 0x200 ∧
      t = { s with index := t.index }) ∧
  (∀ (x : RegIx) (s : State), 15 < (s.getV x).toNat → TakesFault (exec (.ldF x) s) s .glyphIndex)

/-- 45_index_memory.md R243: the three decimal digits of V[X] go to ea(0), ea(1), ea(2), each `(I + k) mod
4096`; if any of the three is below 0x200, RESERVED_WRITE is raised and no byte is written. -/
def Obligations.BcdDigitsAreStored : Prop :=
  EncodedAs 33 0xF0FF#16 0xF033#16 (fun op => .ldB (opX op)) ∧
  (∀ (s : State) (k : Nat), s.ea k = (s.index.toNat + k) % 4096) ∧
  (∀ (x : RegIx) (s : State) (b : Nat), Memory.wf s.mem = true → b = (s.getV x).toNat →
    (∀ k < 3, 0x200 ≤ s.ea k) →
      StoresBytes (exec (.ldB x) s) s [b / 100, b / 10 % 10, b % 10]) ∧
  (∀ (x : RegIx) (s : State), (∃ k < 3, s.ea k < 0x200) →
    TakesFault (exec (.ldB x) s) s .reservedWrite)

/-- 45_index_memory.md R244: V[0]..V[X] go to ea(0)..ea(X); if any of the addresses is below 0x200,
RESERVED_WRITE is raised and no byte is written. -/
def Obligations.RegistersAreStored : Prop :=
  EncodedAs 34 0xF0FF#16 0xF055#16 (fun op => .ldMemVx (opX op)) ∧
  (∀ (x : RegIx) (s : State), Memory.wf s.mem = true → (∀ k < x.val + 1, 0x200 ≤ s.ea k) →
    ∃ t, exec (.ldMemVx x) s = .next t ∧ (∀ j : RegIx, j ≤ x → t.memRead (s.ea j.val) = s.getV j) ∧
      (∀ a, (∀ k < x.val + 1, a ≠ s.ea k) → t.memRead a = s.memRead a) ∧ t = { s with mem := t.mem }) ∧
  (∀ (x : RegIx) (s : State), (∃ k < x.val + 1, s.ea k < 0x200) →
    TakesFault (exec (.ldMemVx x) s) s .reservedWrite)

/-- 45_index_memory.md R245: V[0]..V[X] take the bytes at ea(0)..ea(X), from any address, and nothing else
changes. -/
def Obligations.RegistersAreLoaded : Prop :=
  EncodedAs 35 0xF0FF#16 0xF065#16 (fun op => .ldVxMem (opX op)) ∧
  ∀ (x : RegIx) (s : State), ∃ t, exec (.ldVxMem x) s = .next t ∧
    (∀ j : RegIx, j ≤ x → t.getV j = s.memRead ((s.index.toNat + j.val) % 4096)) ∧
    (∀ j : RegIx, x < j → t.getV j = s.getV j) ∧ t = { s with v := t.v }

/-- Derived (the spec's own inference "from rule R244 and rule R245", the round trip of 45_index_memory.md
section 2): an Fx55 that does not fault, then an Fx65 with the same I and X in a state with the same
memory, restores V[0]..V[X]. -/
def Obligations.StoreThenLoadRestoresRegisters : Prop :=
  ∀ (x : RegIx) (s t u : State), Memory.wf s.mem = true → exec (.ldMemVx x) s = .next t →
    t.run ≠ .faulted → u.mem = t.mem → u.index = s.index →
      ∃ w, exec (.ldVxMem x) u = .next w ∧ ∀ j : RegIx, j ≤ x → w.getV j = s.getV j

/-- Derived from 20_memory.md R65 and 70_reset_and_hazards.md R296: two registers stored over the opcode
at pc are the opcode the next fetch reads. -/
def Obligations.StoredCodeIsFetched : Prop :=
  ∀ (x j : RegIx) (s t : State), Memory.wf s.mem = true → exec (.ldMemVx x) s = .next t →
    t.run ≠ .faulted → j < x → s.pc.toNat = s.ea j.val → s.pc.toNat + 1 = s.ea (j.val + 1) →
      t.fetchOp.toNat = (s.getV j).toNat * 256 + (s.getV (j + 1)).toNat

/-! ## The call stack as seen -/

/-- Derived from 10_state.md R26: the entries at and above SP are dead. Two states that differ in them
alone answer a step with states that differ in dead entries alone, or stop alike. -/
def Obligations.DeadStackEntriesAreNeverSeen : Prop :=
  ∀ (s : State) (dead : Vector Word 16), s.run = .running →
    (∀ k : Fin 16, k.val < s.sp.val → dead[k] = s.stack[k]) →
      ∃ t after, step s = .next t ∧ step { s with stack := dead } = .next { t with stack := after } ∧
        ∀ k : Fin 16, k.val < t.sp.val → after[k] = t.stack[k]

/-! ## Reset and boot -/

/-- The state after reset; derived from 10_state.md R37 and 70_reset_and_hazards.md R291. The zeros are
the model's RESET_FILL (log 4), the glyph bytes, written out from the table of decision D18, its
GLYPH_DATA (log 2) at the open GLYPH_BASE (log 1), and the empty program its own choice (log 12). -/
def Obligations.ResetStateIsAsListed : Prop :=
  State.reset.pc = 0x200#16 ∧ State.reset.run = .running ∧ State.reset.fault = none ∧
  State.reset.faultPc = 0 ∧ State.reset.index = 0 ∧ State.reset.sp = 0 ∧ State.reset.dt = 0 ∧
  State.reset.st = 0 ∧ State.reset.fb = 0 ∧ State.reset.redraw = false ∧
  (∀ j, State.reset.getV j = 0) ∧ (∀ k : Fin 16, State.reset.stack[k] = 0) ∧
  (∀ k : Fin 16, State.reset.key[k] = false) ∧
  (∀ (d row : Nat), d < 16 → row < 5 →
    State.reset.memRead (Config.glyphBase.val + (5 * d + row)) = glyphData.getD (5 * d + row) 0) ∧
  GlyphAtReset 0 [0xF0, 0x90, 0x90, 0x90, 0xF0] ∧ GlyphAtReset 1 [0x20, 0x60, 0x20, 0x20, 0x70] ∧
  GlyphAtReset 2 [0xF0, 0x10, 0xF0, 0x80, 0xF0] ∧ GlyphAtReset 3 [0xF0, 0x10, 0xF0, 0x10, 0xF0] ∧
  GlyphAtReset 4 [0x90, 0x90, 0xF0, 0x10, 0x10] ∧ GlyphAtReset 5 [0xF0, 0x80, 0xF0, 0x10, 0xF0] ∧
  GlyphAtReset 6 [0xF0, 0x80, 0xF0, 0x90, 0xF0] ∧ GlyphAtReset 7 [0xF0, 0x10, 0x20, 0x40, 0x40] ∧
  GlyphAtReset 8 [0xF0, 0x90, 0xF0, 0x90, 0xF0] ∧ GlyphAtReset 9 [0xF0, 0x90, 0xF0, 0x10, 0xF0] ∧
  GlyphAtReset 10 [0xF0, 0x90, 0xF0, 0x90, 0x90] ∧ GlyphAtReset 11 [0xE0, 0x90, 0xE0, 0x90, 0xE0] ∧
  GlyphAtReset 12 [0xF0, 0x80, 0x80, 0x80, 0xF0] ∧ GlyphAtReset 13 [0xE0, 0x90, 0x90, 0x90, 0xE0] ∧
  GlyphAtReset 14 [0xF0, 0x80, 0xF0, 0x80, 0xF0] ∧ GlyphAtReset 15 [0xF0, 0x80, 0xF0, 0x80, 0x80] ∧
  (∀ a, a < Config.glyphBase.val ∨ Config.glyphBase.val + 80 ≤ a → State.reset.memRead a = 0)

/-- Derived from 70_reset_and_hazards.md R290 and R292 (boot as a step from BOOT is the model's form, log
12 and 13): a program of at most 3584 bytes is copied to 0x200 and the machine is RUNNING there with
everything else at its reset value; an unreadable or longer one fails, with no next state. -/
def Obligations.BootCopiesTheProgramOrFails : Prop :=
  (∀ (s : State) (bytes : List Byte), s.run = .boot → s.loader = .image bytes → bytes.length ≤ 3584 →
    ∃ t, step s = .next t ∧
      (∀ k (h : k < bytes.length), t.memRead (0x200 + k) = bytes[k]) ∧
      (∀ a, a < 0x200 ∨ 0x200 + bytes.length ≤ a → t.memRead a = State.reset.memRead a) ∧
      t = { State.reset with
        mem := t.mem, loader := s.loader, keyInput := s.keyInput, pollCount := s.pollCount
        drawInput := s.drawInput, drawCount := s.drawCount }) ∧
  (∀ (s : State) (bytes : List Byte), s.run = .boot → s.loader = .image bytes → 3584 < bytes.length →
    step s = .fault .bootFailed) ∧
  (∀ s : State, s.run = .boot → s.loader = .unreadable → step s = .fault .bootFailed)

/-- Derived from 20_memory.md R55: a word that `State.withFetchWord`, the model's own placing of an opcode
from outside (log 12, DESIGN CHOICE), lays at pc is the opcode the next cycle fetches. -/
def Obligations.PlacedWordIsFetched : Prop :=
  ∀ (s : State) (w : Nat), Memory.wf s.mem = true → s.pc.toNat ≤ 0xFFE → w < 65536 →
    (s.withFetchWord 16 w).fetchOp.toNat = w
end

