-- ==== Sys2Proof/Laws/Decode.lean ====
section
/-! SUPPORT. The three masks of the dispatch table in terms of the opcode's fields, and the bounds of the
fields. -/

namespace Sys2Proof

/-- The leading nibble is below 16. -/
theorem opBits_lt (op : Word) (lo width : Nat) : opBits op lo width < 2 ^ width :=
  Nat.mod_lt _ (Nat.two_pow_pos _)

/-- Mask 0xF000 keeps op[15:12]. -/
theorem and_F000 (op : Word) : (op &&& 0xF000#16).toNat = opBits op 12 4 * 4096 := by
  have h : op &&& 0xF000#16 = (op >>> 12) <<< 12 :=
    BitVec.eq_of_getLsbD_eq fun i hi => by interval_cases i <;> simp
  have := op.isLt
  rw [h]
  simp [opBits, Nat.shiftRight_eq_div_pow, Nat.shiftLeft_eq]
  omega

/-- Mask 0x000F keeps op[3:0]. -/
theorem and_000F (op : Word) : (op &&& 0x000F#16).toNat = opBits op 0 4 := by
  simpa [opBits] using Nat.and_two_pow_sub_one_eq_mod op.toNat 4

/-- Mask 0x00FF keeps op[7:0]. -/
theorem and_00FF (op : Word) : (op &&& 0x00FF#16).toNat = opBits op 0 8 := by
  simpa [opBits] using Nat.and_two_pow_sub_one_eq_mod op.toNat 8

/-- A mask of a high part and a low part selects their sum. -/
theorem and_add (op a b : Word) (h : a &&& b = 0#16) :
    op &&& (a ||| b) = (op &&& a) + (op &&& b) := by
  rw [BitVec.add_eq_or_of_and_eq_zero _ _ ?_]
  · ext i hi; simp; cases op[i] <;> simp
  · have : ∀ i, ¬ (a.getLsbD i = true ∧ b.getLsbD i = true) := fun i hi => by
      have := congrArg (fun v => v.getLsbD i) h
      simp [hi.1, hi.2] at this
    apply BitVec.eq_of_getLsbD_eq
    intro i hi
    have := this i
    cases ha : a.getLsbD i <;> cases hb : b.getLsbD i <;> simp_all

/-- Mask 0xF00F keeps op[15:12] and op[3:0]. -/
theorem and_F00F (op : Word) : (op &&& 0xF00F#16).toNat = opBits op 12 4 * 4096 + opBits op 0 4 := by
  have h : op &&& 0xF00F#16 = (op &&& 0xF000#16) + (op &&& 0x000F#16) := and_add op 0xF000#16 0x000F#16 rfl
  rw [h, BitVec.toNat_add, and_F000, and_000F]
  have h1 := opBits_lt op 12 4
  have h2 := opBits_lt op 0 4
  omega

/-- Mask 0xF0FF keeps op[15:12] and op[7:0]. -/
theorem and_F0FF (op : Word) : (op &&& 0xF0FF#16).toNat = opBits op 12 4 * 4096 + opBits op 0 8 := by
  have h : op &&& 0xF0FF#16 = (op &&& 0xF000#16) + (op &&& 0x00FF#16) := and_add op 0xF000#16 0x00FF#16 rfl
  rw [h, BitVec.toNat_add, and_F000, and_00FF]
  have h1 := opBits_lt op 12 4
  have h2 := opBits_lt op 0 8
  omega

/-- What a match under mask 0xF000 says of the leading nibble. -/
theorem class_of_F000 {op : Word} {c : Nat} (hc : c < 16)
    (h : op &&& 0xF000#16 = BitVec.ofNat 16 (c * 4096)) : opBits op 12 4 = c := by
  have := congrArg BitVec.toNat h
  rw [and_F000, BitVec.toNat_ofNat, Nat.mod_eq_of_lt (by omega)] at this
  omega

/-- What a match under mask 0xF00F says of the two nibbles. -/
theorem nibbles_of_F00F {op : Word} {c n : Nat} (hc : c < 16) (hn : n < 16)
    (h : op &&& 0xF00F#16 = BitVec.ofNat 16 (c * 4096 + n)) :
    opBits op 12 4 = c ∧ opBits op 0 4 = n := by
  have := congrArg BitVec.toNat h
  rw [and_F00F, BitVec.toNat_ofNat, Nat.mod_eq_of_lt (by omega)] at this
  have h2 := opBits_lt op 0 4
  omega

/-- What a match under mask 0xF0FF says of the leading nibble and the low byte. -/
theorem fields_of_F0FF {op : Word} {c n : Nat} (hc : c < 16) (hn : n < 256)
    (h : op &&& 0xF0FF#16 = BitVec.ofNat 16 (c * 4096 + n)) :
    opBits op 12 4 = c ∧ opBits op 0 8 = n := by
  have := congrArg BitVec.toNat h
  rw [and_F0FF, BitVec.toNat_ofNat, Nat.mod_eq_of_lt (by omega)] at this
  have h2 := opBits_lt op 0 8
  omega

/-- The fields of a word in NNN form. -/
theorem nnn_fields (c : Nat) (hc : c < 16) (nnn : BitVec 12) :
    opBits (wordNNN c nnn) 12 4 = c ∧ opNNN (wordNNN c nnn) = nnn := by
  have h : nnn.toNat < 4096 := nnn.isLt
  refine ⟨by simp [wordNNN, opBits]; omega, ?_⟩
  apply BitVec.eq_of_toNat_eq
  simp [wordNNN, opNNN, opBits]
  omega

/-- The fields of a word in XKK form. -/
theorem xkk_fields (c : Nat) (hc : c < 16) (x : RegIx) (kk : Byte) :
    opBits (wordXKK c x kk.toNat) 12 4 = c ∧ opX (wordXKK c x kk.toNat) = x ∧
      opKK (wordXKK c x kk.toNat) = kk := by
  have h := x.isLt
  have h' := kk.isLt
  refine ⟨by simp [wordXKK, opBits]; omega, Fin.ext (by simp [wordXKK, opX, opBits]; omega), ?_⟩
  apply BitVec.eq_of_toNat_eq
  simp [wordXKK, opKK, opBits]
  omega

/-- The fields of a word of four nibbles. -/
theorem nibble_fields (c : Nat) (hc : c < 16) (x y : RegIx) (n : Nat) (hn : n < 16) :
    opBits (wordOfNibbles c x y n) 12 4 = c ∧ opX (wordOfNibbles c x y n) = x ∧
      opY (wordOfNibbles c x y n) = y ∧ opN (wordOfNibbles c x y n) = BitVec.ofNat 4 n ∧
      opBits (wordOfNibbles c x y n) 0 4 = n := by
  have h := x.isLt
  have h' := y.isLt
  refine ⟨by simp [wordOfNibbles, opBits]; omega, Fin.ext (by simp [wordOfNibbles, opX, opBits]; omega),
    Fin.ext (by simp [wordOfNibbles, opY, opBits]; omega), ?_, by simp [wordOfNibbles, opBits]; omega⟩
  apply BitVec.eq_of_toNat_eq
  simp [wordOfNibbles, opN, opBits]
  omega

/-- Laying an opcode out as two bytes and reading them back gives the opcode. -/
theorem opcodeOfBytes_high_low (op : Word) : opcodeOfBytes (opHigh op) (opLow op) = op := by
  apply BitVec.eq_of_toNat_eq
  have := op.isLt
  simp [opcodeOfBytes, opHigh, opLow]
  omega

end Sys2Proof
end

