-- ==== Sys2Proof/Laws/Display.lean ====
section
/-! SUPPORT. What drawing a list of distinct cells does, and that the cells of a sprite are distinct
(43_display.md R204). -/

namespace Sys2Proof.Machine

/-- Drawing distinct cells toggles exactly them, and collides exactly when one of them was 1. -/
theorem drawCell_foldl (fb : Frame) (hit : Bool) (cells : List Nat) (hn : cells.Nodup)
    (hb : ∀ c ∈ cells, c < 2048) :
    (∀ c, (cells.foldl drawCell (fb, hit)).1.getLsbD c = (fb.getLsbD c ^^ decide (c ∈ cells))) ∧
      (cells.foldl drawCell (fb, hit)).2 = (hit || cells.any fun c => fb.getLsbD c) := by
  induction cells generalizing fb hit with
  | nil => simp
  | cons a rest ih =>
    rw [List.nodup_cons] at hn
    have ha : a < 2048 := hb a (by simp)
    have other : ∀ c, c ≠ a → (fb ^^^ BitVec.twoPow 2048 a).getLsbD c = fb.getLsbD c := by
      intro c hc
      have : a ≠ c := fun e => hc e.symm
      simp [BitVec.getLsbD_twoPow, this]
    obtain ⟨bits, flag⟩ := ih (fb ^^^ BitVec.twoPow 2048 a) (hit || fb.getLsbD a) hn.2
      fun c hc => hb c (by simp [hc])
    have same : (rest.any fun c => (fb ^^^ BitVec.twoPow 2048 a).getLsbD c) =
        rest.any fun c => fb.getLsbD c := by
      rw [Bool.eq_iff_iff]
      simp only [List.any_eq_true]
      constructor
      · rintro ⟨c, hc, h⟩
        exact ⟨c, hc, by rwa [other c fun e => hn.1 (e ▸ hc)] at h⟩
      · rintro ⟨c, hc, h⟩
        exact ⟨c, hc, by rwa [other c fun e => hn.1 (e ▸ hc)]⟩
    constructor
    · intro c
      rw [List.foldl_cons, drawCell, bits c]
      by_cases h : c = a
      · subst h
        simp [hn.1, ha]
      · simp [other c h, h]
    · rw [List.foldl_cons, drawCell, flag, same]
      simp [Bool.or_assoc]

/-- A sprite's cells are cells of the framebuffer. -/
theorem State.spriteCells_lt (s : State) (x0 y0 n : Nat) : ∀ c ∈ s.spriteCells x0 y0 n, c < 2048 := by
  intro c hc
  simp only [State.spriteCells, List.mem_flatMap, rowCells, List.mem_map] at hc
  obtain ⟨r, _, k, _, rfl⟩ := hc
  exact Nat.mod_lt _ (by decide)

/-- Within one draw no cell is hit twice. -/
theorem State.spriteCells_nodup (s : State) (x0 y0 n : Nat) (hn : n ≤ 16) :
    (s.spriteCells x0 y0 n).Nodup := by
  rw [State.spriteCells, List.nodup_flatMap]
  constructor
  · intro r _
    refine List.Nodup.map_on ?_ (List.nodup_range.filter _)
    intro a ha b hb h
    simp only [List.mem_filter, List.mem_range] at ha hb
    simp only [cellOf] at h
    omega
  · refine List.nodup_range.imp_of_mem ?_
    intro r r' hr hr' hne c hc hc'
    simp only [List.mem_range] at hr hr'
    simp only [rowCells, List.mem_map, List.mem_filter, List.mem_range] at hc hc'
    obtain ⟨k, ⟨hk, _⟩, rfl⟩ := hc
    obtain ⟨k', ⟨hk', _⟩, h⟩ := hc'
    simp only [cellOf] at h
    omega

/-- A sprite bit as a bit of the byte's value. -/
theorem spriteBit_iff (b : Byte) (k : Nat) : spriteBit b k = true ↔ b.toNat / 2 ^ (7 - k) % 2 = 1 := by
  simp [spriteBit, BitVec.getLsbD, Nat.testBit_eq_decide_div_mod_eq]

end Sys2Proof.Machine
end

