-- ==== Sys2Proof/Laws/Memory.lean ====
section
/-! SUPPORT. The laws of memory: a read after a write, and that every operation keeps the canonical
form. -/

namespace Sys2Proof.Machine

/-- A canonical list whose addresses start at `lo` names no address below `lo`. -/
theorem Memory.read_below {m : Memory} {lo a : Nat} (hm : Memory.wfFrom lo m = true) (ha : a < lo) :
    Memory.read m a = unlistedByte a := by
  induction m generalizing lo with
  | nil => rfl
  | cons c rest ih =>
    simp only [Memory.wfFrom, Bool.and_eq_true, decide_eq_true_eq] at hm
    obtain ⟨⟨⟨h1, -⟩, -⟩, h4⟩ := hm
    have hc : c.1 ≠ a := by omega
    simp only [Memory.read, if_neg hc]
    exact ih h4 (by omega)

/-- The bound of a canonical list can be lowered. -/
theorem Memory.wfFrom_mono {m : Memory} {lo lo' : Nat} (h : lo' ≤ lo) (hm : Memory.wfFrom lo m = true) :
    Memory.wfFrom lo' m = true := by
  cases m with
  | nil => rfl
  | cons c rest =>
    simp only [Memory.wfFrom, Bool.and_eq_true, decide_eq_true_eq] at hm ⊢
    exact ⟨⟨⟨by omega, hm.1.1.2⟩, hm.1.2⟩, hm.2⟩

/-- Reading another address than the one put in front. -/
theorem Memory.read_consCell_other {a a' : Nat} (b : Byte) (rest : Memory) (h : a' ≠ a) :
    Memory.read (Memory.consCell a b rest) a' = Memory.read rest a' := by
  unfold Memory.consCell
  split
  · rfl
  · simp [Memory.read, h.symm]

/-- Reading the address put in front of a canonical list that starts above it. -/
theorem Memory.read_consCell_same {a lo : Nat} (b : Byte) {rest : Memory}
    (hr : Memory.wfFrom lo rest = true) (h : a < lo) :
    Memory.read (Memory.consCell a b rest) a = b := by
  unfold Memory.consCell
  split
  · rename_i hb; rw [Memory.read_below hr h, hb]
  · simp [Memory.read]

/-- A cell put in front of a canonical list that starts above it. -/
theorem Memory.consCell_wfFrom {a lo : Nat} (b : Byte) {rest : Memory} (hlo : lo ≤ a) (ha : a < memSize)
    (hr : Memory.wfFrom (a + 1) rest = true) : Memory.wfFrom lo (Memory.consCell a b rest) = true := by
  unfold Memory.consCell
  split
  · exact Memory.wfFrom_mono (by omega) hr
  · rename_i hb; simp [Memory.wfFrom, hlo, ha, hb, hr]

/-- A write leaves every other address as it was, in any list. -/
theorem Memory.read_write_other (m : Memory) {a a' : Nat} (b : Byte) (h : a' ≠ a) :
    Memory.read (Memory.write m a b) a' = Memory.read m a' := by
  induction m with
  | nil => exact Memory.read_consCell_other b [] h
  | cons c rest ih =>
    simp only [Memory.write]
    split
    · exact Memory.read_consCell_other b _ h
    · split
      · rename_i hc
        rw [Memory.read_consCell_other b _ h]
        simp [Memory.read, hc, h.symm]
      · simp only [Memory.read, ih]

/-- A read after a write to the same address gives the byte written, from a bounded canonical list. -/
theorem Memory.read_write_same_from {m : Memory} {lo a : Nat} (b : Byte)
    (hm : Memory.wfFrom lo m = true) : Memory.read (Memory.write m a b) a = b := by
  induction m generalizing lo with
  | nil => exact Memory.read_consCell_same (lo := a + 1) b rfl (by omega)
  | cons c rest ih =>
    simp only [Memory.wfFrom, Bool.and_eq_true, decide_eq_true_eq] at hm
    obtain ⟨⟨⟨h1, h2⟩, h3⟩, h4⟩ := hm
    simp only [Memory.write]
    split
    · refine Memory.read_consCell_same (lo := c.1) b ?_ (by assumption)
      simp [Memory.wfFrom, h2, h4]
      simpa using h3
    · split
      · rename_i hc
        exact Memory.read_consCell_same b h4 (by omega)
      · rename_i hc
        simp only [Memory.read, if_neg hc]
        exact ih h4

/-- A read after a write to the same address gives the byte written. -/
theorem Memory.read_write_same {m : Memory} (hm : Memory.wf m = true) (a : Nat) (b : Byte) :
    Memory.read (Memory.write m a b) a = b := Memory.read_write_same_from b hm

/-- A write keeps a bounded canonical form. -/
theorem Memory.write_wfFrom {m : Memory} {lo a : Nat} (b : Byte) (hm : Memory.wfFrom lo m = true)
    (hlo : lo ≤ a) (ha : a < memSize) : Memory.wfFrom lo (Memory.write m a b) = true := by
  induction m generalizing lo with
  | nil => exact Memory.consCell_wfFrom b hlo ha rfl
  | cons c rest ih =>
    simp only [Memory.wfFrom, Bool.and_eq_true, decide_eq_true_eq] at hm
    obtain ⟨⟨⟨h1, h2⟩, h3⟩, h4⟩ := hm
    simp only [Memory.write]
    split
    · refine Memory.consCell_wfFrom b hlo ha ?_
      simp only [Memory.wfFrom, Bool.and_eq_true, decide_eq_true_eq]
      exact ⟨⟨⟨by omega, h2⟩, h3⟩, h4⟩
    · split
      · rename_i hc
        exact Memory.consCell_wfFrom b hlo ha (hc ▸ h4)
      · simp only [Memory.wfFrom, Bool.and_eq_true, decide_eq_true_eq]
        exact ⟨⟨⟨h1, h2⟩, h3⟩, ih h4 (by omega)⟩

/-- A write keeps the canonical form. -/
theorem Memory.write_wf {m : Memory} {a : Nat} (b : Byte) (hm : Memory.wf m = true) (ha : a < memSize) :
    Memory.wf (Memory.write m a b) = true := Memory.write_wfFrom b hm (Nat.zero_le a) ha

/-- The loader's copy keeps the canonical form where it stays inside memory. -/
theorem Memory.load_wfFrom {m : Memory} {lo a : Nat} (bytes : List Byte) (hm : Memory.wfFrom lo m = true)
    (hlo : lo ≤ a) (ha : a + bytes.length ≤ memSize) : Memory.wfFrom lo (Memory.load m a bytes) = true := by
  induction bytes generalizing m a with
  | nil => exact hm
  | cons b rest ih =>
    simp only [List.length_cons] at ha
    exact ih (Memory.write_wfFrom b hm hlo (by omega)) (by omega) (by omega)

/-- The loader's copy leaves every address outside the copied bytes as it was. -/
theorem Memory.read_load_outside (m : Memory) (a : Nat) (bytes : List Byte) {a' : Nat}
    (h : a' < a ∨ a + bytes.length ≤ a') : Memory.read (Memory.load m a bytes) a' = Memory.read m a' := by
  induction bytes generalizing m a with
  | nil => rfl
  | cons b rest ih =>
    simp only [List.length_cons] at h
    rw [Memory.load, ih _ _ (by omega), Memory.read_write_other _ _ (by omega)]

/-- The loader's copy puts the k-th byte at a + k. -/
theorem Memory.read_load_inside {m : Memory} {a : Nat} (bytes : List Byte) (hm : Memory.wf m = true)
    (ha : a + bytes.length ≤ memSize) {k : Nat} (hk : k < bytes.length) :
    Memory.read (Memory.load m a bytes) (a + k) = bytes[k] := by
  induction bytes generalizing m a k with
  | nil => simp at hk
  | cons b rest ih =>
    simp only [List.length_cons] at ha hk
    rw [Memory.load]
    cases k with
    | zero =>
      rw [Memory.read_load_outside _ _ _ (by omega)]
      simpa using Memory.read_write_same hm a b
    | succ k =>
      have := ih (a := a + 1) (k := k) (Memory.write_wf (a := a) b hm (by omega)) (by omega) (by omega)
      simpa [Nat.add_assoc, Nat.add_comm 1 k] using this

/-- Two canonical lists that read the same everywhere are the same list. -/
theorem Memory.ext_from {m m' : Memory} {lo : Nat} (hm : Memory.wfFrom lo m = true)
    (hm' : Memory.wfFrom lo m' = true) (h : ∀ a, Memory.read m a = Memory.read m' a) : m = m' := by
  induction m generalizing m' lo with
  | nil =>
    cases m' with
    | nil => rfl
    | cons c' rest' =>
      simp only [Memory.wfFrom, Bool.and_eq_true, decide_eq_true_eq, bne_iff_ne, ne_eq] at hm'
      have := h c'.1
      simp only [Memory.read, if_true] at this
      exact absurd this.symm hm'.1.2
  | cons c rest ih =>
    cases m' with
    | nil =>
      simp only [Memory.wfFrom, Bool.and_eq_true, decide_eq_true_eq, bne_iff_ne, ne_eq] at hm
      have := h c.1
      simp only [Memory.read, if_true] at this
      exact absurd this hm.1.2
    | cons c' rest' =>
      simp only [Memory.wfFrom, Bool.and_eq_true, decide_eq_true_eq, bne_iff_ne, ne_eq] at hm hm'
      obtain ⟨⟨⟨h1, h2⟩, h3⟩, h4⟩ := hm
      obtain ⟨⟨⟨h1', h2'⟩, h3'⟩, h4'⟩ := hm'
      have key : c.1 = c'.1 := by
        by_contra hne
        rcases Nat.lt_or_gt_of_ne hne with hlt | hgt
        · have := h c.1
          simp only [Memory.read, if_true, if_neg (Ne.symm hne)] at this
          exact h3 (this.trans (Memory.read_below h4' (by omega)))
        · have := h c'.1
          simp only [Memory.read, if_true, if_neg hne] at this
          exact h3' (this.symm.trans (Memory.read_below h4 (by omega)))
      have val : c.2 = c'.2 := by
        have := h c.1
        simpa only [Memory.read, if_true, if_pos key.symm] using this
      have hrest : rest = rest' := by
        refine ih h4 (key ▸ h4') fun a => ?_
        by_cases ha : c.1 = a
        · rw [Memory.read_below h4 (by omega), Memory.read_below (key ▸ h4') (by omega)]
        · have := h a
          simpa only [Memory.read, if_neg ha, if_neg (key ▸ ha)] using this
      exact congrArg₂ List.cons (Prod.ext key val) hrest

/-- What an address of the glyph table reads as where nothing is listed. -/
theorem unlistedByte_glyph (k : Nat) (hk : k < 80) : unlistedByte (glyphBase + k) = glyphData.getD k 0 := by
  have := Config.glyphBase.isLt
  rw [unlistedByte, if_pos (by simp only [glyphBase, programBase]; omega), if_pos (Nat.le_add_right ..),
    Nat.add_sub_cancel_left]

end Sys2Proof.Machine
end

