-- ==== Sys2Proof/Laws/State.lean ====
section
/-! SUPPORT. What each update of the state does to each field: one lemma per field per update, so that no
proof unfolds a record update. -/

namespace Sys2Proof.Machine

variable (s : State)

/-! ## setV -/

@[simp] theorem State.setV_v (x : RegIx) (b : Byte) : (s.setV x b).v = s.v.set x b := rfl
@[simp] theorem State.setV_index (x : RegIx) (b : Byte) : (s.setV x b).index = s.index := rfl
@[simp] theorem State.setV_pc (x : RegIx) (b : Byte) : (s.setV x b).pc = s.pc := rfl
@[simp] theorem State.setV_sp (x : RegIx) (b : Byte) : (s.setV x b).sp = s.sp := rfl
@[simp] theorem State.setV_stack (x : RegIx) (b : Byte) : (s.setV x b).stack = s.stack := rfl
@[simp] theorem State.setV_dt (x : RegIx) (b : Byte) : (s.setV x b).dt = s.dt := rfl
@[simp] theorem State.setV_st (x : RegIx) (b : Byte) : (s.setV x b).st = s.st := rfl
@[simp] theorem State.setV_fb (x : RegIx) (b : Byte) : (s.setV x b).fb = s.fb := rfl
@[simp] theorem State.setV_redraw (x : RegIx) (b : Byte) : (s.setV x b).redraw = s.redraw := rfl
@[simp] theorem State.setV_key (x : RegIx) (b : Byte) : (s.setV x b).key = s.key := rfl
@[simp] theorem State.setV_mem (x : RegIx) (b : Byte) : (s.setV x b).mem = s.mem := rfl
@[simp] theorem State.setV_run (x : RegIx) (b : Byte) : (s.setV x b).run = s.run := rfl
@[simp] theorem State.setV_fault (x : RegIx) (b : Byte) : (s.setV x b).fault = s.fault := rfl
@[simp] theorem State.setV_faultPc (x : RegIx) (b : Byte) : (s.setV x b).faultPc = s.faultPc := rfl
@[simp] theorem State.setV_renderOut (x : RegIx) (b : Byte) : (s.setV x b).renderOut = s.renderOut := rfl
@[simp] theorem State.setV_audioOut (x : RegIx) (b : Byte) : (s.setV x b).audioOut = s.audioOut := rfl
@[simp] theorem State.setV_loader (x : RegIx) (b : Byte) : (s.setV x b).loader = s.loader := rfl
@[simp] theorem State.setV_keyInput (x : RegIx) (b : Byte) : (s.setV x b).keyInput = s.keyInput := rfl
@[simp] theorem State.setV_pollCount (x : RegIx) (b : Byte) : (s.setV x b).pollCount = s.pollCount := rfl
@[simp] theorem State.setV_drawInput (x : RegIx) (b : Byte) : (s.setV x b).drawInput = s.drawInput := rfl
@[simp] theorem State.setV_drawCount (x : RegIx) (b : Byte) : (s.setV x b).drawCount = s.drawCount := rfl

/-! ## preAdvance -/

@[simp] theorem State.preAdvance_v : s.preAdvance.v = s.v := rfl
@[simp] theorem State.preAdvance_index : s.preAdvance.index = s.index := rfl
@[simp] theorem State.preAdvance_pc : s.preAdvance.pc = wrapAddr (s.pc.toNat + 2) := rfl
@[simp] theorem State.preAdvance_sp : s.preAdvance.sp = s.sp := rfl
@[simp] theorem State.preAdvance_stack : s.preAdvance.stack = s.stack := rfl
@[simp] theorem State.preAdvance_dt : s.preAdvance.dt = s.dt := rfl
@[simp] theorem State.preAdvance_st : s.preAdvance.st = s.st := rfl
@[simp] theorem State.preAdvance_fb : s.preAdvance.fb = s.fb := rfl
@[simp] theorem State.preAdvance_redraw : s.preAdvance.redraw = s.redraw := rfl
@[simp] theorem State.preAdvance_key : s.preAdvance.key = s.key := rfl
@[simp] theorem State.preAdvance_mem : s.preAdvance.mem = s.mem := rfl
@[simp] theorem State.preAdvance_run : s.preAdvance.run = s.run := rfl
@[simp] theorem State.preAdvance_fault : s.preAdvance.fault = s.fault := rfl
@[simp] theorem State.preAdvance_faultPc : s.preAdvance.faultPc = s.faultPc := rfl
@[simp] theorem State.preAdvance_renderOut : s.preAdvance.renderOut = s.renderOut := rfl
@[simp] theorem State.preAdvance_audioOut : s.preAdvance.audioOut = s.audioOut := rfl
@[simp] theorem State.preAdvance_loader : s.preAdvance.loader = s.loader := rfl
@[simp] theorem State.preAdvance_keyInput : s.preAdvance.keyInput = s.keyInput := rfl
@[simp] theorem State.preAdvance_pollCount : s.preAdvance.pollCount = s.pollCount := rfl
@[simp] theorem State.preAdvance_drawInput : s.preAdvance.drawInput = s.drawInput := rfl
@[simp] theorem State.preAdvance_drawCount : s.preAdvance.drawCount = s.drawCount := rfl

/-! ## skip -/

@[simp] theorem State.skip_v : s.skip.v = s.v := rfl
@[simp] theorem State.skip_index : s.skip.index = s.index := rfl
@[simp] theorem State.skip_pc : s.skip.pc = wrapAddr (s.pc.toNat + 2) := rfl
@[simp] theorem State.skip_sp : s.skip.sp = s.sp := rfl
@[simp] theorem State.skip_stack : s.skip.stack = s.stack := rfl
@[simp] theorem State.skip_dt : s.skip.dt = s.dt := rfl
@[simp] theorem State.skip_st : s.skip.st = s.st := rfl
@[simp] theorem State.skip_fb : s.skip.fb = s.fb := rfl
@[simp] theorem State.skip_redraw : s.skip.redraw = s.redraw := rfl
@[simp] theorem State.skip_key : s.skip.key = s.key := rfl
@[simp] theorem State.skip_mem : s.skip.mem = s.mem := rfl
@[simp] theorem State.skip_run : s.skip.run = s.run := rfl
@[simp] theorem State.skip_fault : s.skip.fault = s.fault := rfl
@[simp] theorem State.skip_faultPc : s.skip.faultPc = s.faultPc := rfl
@[simp] theorem State.skip_renderOut : s.skip.renderOut = s.renderOut := rfl
@[simp] theorem State.skip_audioOut : s.skip.audioOut = s.audioOut := rfl
@[simp] theorem State.skip_loader : s.skip.loader = s.loader := rfl
@[simp] theorem State.skip_keyInput : s.skip.keyInput = s.keyInput := rfl
@[simp] theorem State.skip_pollCount : s.skip.pollCount = s.pollCount := rfl
@[simp] theorem State.skip_drawInput : s.skip.drawInput = s.drawInput := rfl
@[simp] theorem State.skip_drawCount : s.skip.drawCount = s.drawCount := rfl

/-! ## rewind -/

@[simp] theorem State.rewind_v : s.rewind.v = s.v := rfl
@[simp] theorem State.rewind_index : s.rewind.index = s.index := rfl
@[simp] theorem State.rewind_pc : s.rewind.pc = s.opAddr := rfl
@[simp] theorem State.rewind_sp : s.rewind.sp = s.sp := rfl
@[simp] theorem State.rewind_stack : s.rewind.stack = s.stack := rfl
@[simp] theorem State.rewind_dt : s.rewind.dt = s.dt := rfl
@[simp] theorem State.rewind_st : s.rewind.st = s.st := rfl
@[simp] theorem State.rewind_fb : s.rewind.fb = s.fb := rfl
@[simp] theorem State.rewind_redraw : s.rewind.redraw = s.redraw := rfl
@[simp] theorem State.rewind_key : s.rewind.key = s.key := rfl
@[simp] theorem State.rewind_mem : s.rewind.mem = s.mem := rfl
@[simp] theorem State.rewind_run : s.rewind.run = s.run := rfl
@[simp] theorem State.rewind_fault : s.rewind.fault = s.fault := rfl
@[simp] theorem State.rewind_faultPc : s.rewind.faultPc = s.faultPc := rfl
@[simp] theorem State.rewind_renderOut : s.rewind.renderOut = s.renderOut := rfl
@[simp] theorem State.rewind_audioOut : s.rewind.audioOut = s.audioOut := rfl
@[simp] theorem State.rewind_loader : s.rewind.loader = s.loader := rfl
@[simp] theorem State.rewind_keyInput : s.rewind.keyInput = s.keyInput := rfl
@[simp] theorem State.rewind_pollCount : s.rewind.pollCount = s.pollCount := rfl
@[simp] theorem State.rewind_drawInput : s.rewind.drawInput = s.drawInput := rfl
@[simp] theorem State.rewind_drawCount : s.rewind.drawCount = s.drawCount := rfl

/-! ## jump -/

@[simp] theorem State.jump_v (a : Word) : (s.jump a).v = s.v := rfl
@[simp] theorem State.jump_index (a : Word) : (s.jump a).index = s.index := rfl
@[simp] theorem State.jump_pc (a : Word) : (s.jump a).pc = a := rfl
@[simp] theorem State.jump_sp (a : Word) : (s.jump a).sp = s.sp := rfl
@[simp] theorem State.jump_stack (a : Word) : (s.jump a).stack = s.stack := rfl
@[simp] theorem State.jump_dt (a : Word) : (s.jump a).dt = s.dt := rfl
@[simp] theorem State.jump_st (a : Word) : (s.jump a).st = s.st := rfl
@[simp] theorem State.jump_fb (a : Word) : (s.jump a).fb = s.fb := rfl
@[simp] theorem State.jump_redraw (a : Word) : (s.jump a).redraw = s.redraw := rfl
@[simp] theorem State.jump_key (a : Word) : (s.jump a).key = s.key := rfl
@[simp] theorem State.jump_mem (a : Word) : (s.jump a).mem = s.mem := rfl
@[simp] theorem State.jump_run (a : Word) : (s.jump a).run = s.run := rfl
@[simp] theorem State.jump_fault (a : Word) : (s.jump a).fault = s.fault := rfl
@[simp] theorem State.jump_faultPc (a : Word) : (s.jump a).faultPc = s.faultPc := rfl
@[simp] theorem State.jump_renderOut (a : Word) : (s.jump a).renderOut = s.renderOut := rfl
@[simp] theorem State.jump_audioOut (a : Word) : (s.jump a).audioOut = s.audioOut := rfl
@[simp] theorem State.jump_loader (a : Word) : (s.jump a).loader = s.loader := rfl
@[simp] theorem State.jump_keyInput (a : Word) : (s.jump a).keyInput = s.keyInput := rfl
@[simp] theorem State.jump_pollCount (a : Word) : (s.jump a).pollCount = s.pollCount := rfl
@[simp] theorem State.jump_drawInput (a : Word) : (s.jump a).drawInput = s.drawInput := rfl
@[simp] theorem State.jump_drawCount (a : Word) : (s.jump a).drawCount = s.drawCount := rfl

/-! ## enterFaulted -/

@[simp] theorem State.enterFaulted_v (k : FaultKind) (a : Word) : (s.enterFaulted k a).v = s.v := rfl
@[simp] theorem State.enterFaulted_index (k : FaultKind) (a : Word) : (s.enterFaulted k a).index = s.index := rfl
@[simp] theorem State.enterFaulted_pc (k : FaultKind) (a : Word) : (s.enterFaulted k a).pc = a := rfl
@[simp] theorem State.enterFaulted_sp (k : FaultKind) (a : Word) : (s.enterFaulted k a).sp = s.sp := rfl
@[simp] theorem State.enterFaulted_stack (k : FaultKind) (a : Word) : (s.enterFaulted k a).stack = s.stack := rfl
@[simp] theorem State.enterFaulted_dt (k : FaultKind) (a : Word) : (s.enterFaulted k a).dt = s.dt := rfl
@[simp] theorem State.enterFaulted_st (k : FaultKind) (a : Word) : (s.enterFaulted k a).st = s.st := rfl
@[simp] theorem State.enterFaulted_fb (k : FaultKind) (a : Word) : (s.enterFaulted k a).fb = s.fb := rfl
@[simp] theorem State.enterFaulted_redraw (k : FaultKind) (a : Word) : (s.enterFaulted k a).redraw = s.redraw := rfl
@[simp] theorem State.enterFaulted_key (k : FaultKind) (a : Word) : (s.enterFaulted k a).key = s.key := rfl
@[simp] theorem State.enterFaulted_mem (k : FaultKind) (a : Word) : (s.enterFaulted k a).mem = s.mem := rfl
@[simp] theorem State.enterFaulted_run (k : FaultKind) (a : Word) : (s.enterFaulted k a).run = .faulted := rfl
@[simp] theorem State.enterFaulted_fault (k : FaultKind) (a : Word) : (s.enterFaulted k a).fault = some k := rfl
@[simp] theorem State.enterFaulted_faultPc (k : FaultKind) (a : Word) : (s.enterFaulted k a).faultPc = a := rfl
@[simp] theorem State.enterFaulted_renderOut (k : FaultKind) (a : Word) : (s.enterFaulted k a).renderOut = s.renderOut := rfl
@[simp] theorem State.enterFaulted_audioOut (k : FaultKind) (a : Word) : (s.enterFaulted k a).audioOut = s.audioOut := rfl
@[simp] theorem State.enterFaulted_loader (k : FaultKind) (a : Word) : (s.enterFaulted k a).loader = s.loader := rfl
@[simp] theorem State.enterFaulted_keyInput (k : FaultKind) (a : Word) : (s.enterFaulted k a).keyInput = s.keyInput := rfl
@[simp] theorem State.enterFaulted_pollCount (k : FaultKind) (a : Word) : (s.enterFaulted k a).pollCount = s.pollCount := rfl
@[simp] theorem State.enterFaulted_drawInput (k : FaultKind) (a : Word) : (s.enterFaulted k a).drawInput = s.drawInput := rfl
@[simp] theorem State.enterFaulted_drawCount (k : FaultKind) (a : Word) : (s.enterFaulted k a).drawCount = s.drawCount := rfl

/-! ## memWrite -/

@[simp] theorem State.memWrite_v (a : Nat) (b : Byte) : (s.memWrite a b).v = s.v := rfl
@[simp] theorem State.memWrite_index (a : Nat) (b : Byte) : (s.memWrite a b).index = s.index := rfl
@[simp] theorem State.memWrite_pc (a : Nat) (b : Byte) : (s.memWrite a b).pc = s.pc := rfl
@[simp] theorem State.memWrite_sp (a : Nat) (b : Byte) : (s.memWrite a b).sp = s.sp := rfl
@[simp] theorem State.memWrite_stack (a : Nat) (b : Byte) : (s.memWrite a b).stack = s.stack := rfl
@[simp] theorem State.memWrite_dt (a : Nat) (b : Byte) : (s.memWrite a b).dt = s.dt := rfl
@[simp] theorem State.memWrite_st (a : Nat) (b : Byte) : (s.memWrite a b).st = s.st := rfl
@[simp] theorem State.memWrite_fb (a : Nat) (b : Byte) : (s.memWrite a b).fb = s.fb := rfl
@[simp] theorem State.memWrite_redraw (a : Nat) (b : Byte) : (s.memWrite a b).redraw = s.redraw := rfl
@[simp] theorem State.memWrite_key (a : Nat) (b : Byte) : (s.memWrite a b).key = s.key := rfl
@[simp] theorem State.memWrite_mem (a : Nat) (b : Byte) : (s.memWrite a b).mem = Memory.write s.mem a b := rfl
@[simp] theorem State.memWrite_run (a : Nat) (b : Byte) : (s.memWrite a b).run = s.run := rfl
@[simp] theorem State.memWrite_fault (a : Nat) (b : Byte) : (s.memWrite a b).fault = s.fault := rfl
@[simp] theorem State.memWrite_faultPc (a : Nat) (b : Byte) : (s.memWrite a b).faultPc = s.faultPc := rfl
@[simp] theorem State.memWrite_renderOut (a : Nat) (b : Byte) : (s.memWrite a b).renderOut = s.renderOut := rfl
@[simp] theorem State.memWrite_audioOut (a : Nat) (b : Byte) : (s.memWrite a b).audioOut = s.audioOut := rfl
@[simp] theorem State.memWrite_loader (a : Nat) (b : Byte) : (s.memWrite a b).loader = s.loader := rfl
@[simp] theorem State.memWrite_keyInput (a : Nat) (b : Byte) : (s.memWrite a b).keyInput = s.keyInput := rfl
@[simp] theorem State.memWrite_pollCount (a : Nat) (b : Byte) : (s.memWrite a b).pollCount = s.pollCount := rfl
@[simp] theorem State.memWrite_drawInput (a : Nat) (b : Byte) : (s.memWrite a b).drawInput = s.drawInput := rfl
@[simp] theorem State.memWrite_drawCount (a : Nat) (b : Byte) : (s.memWrite a b).drawCount = s.drawCount := rfl

/-! ## clearOutputs -/

@[simp] theorem State.clearOutputs_v : s.clearOutputs.v = s.v := rfl
@[simp] theorem State.clearOutputs_index : s.clearOutputs.index = s.index := rfl
@[simp] theorem State.clearOutputs_pc : s.clearOutputs.pc = s.pc := rfl
@[simp] theorem State.clearOutputs_sp : s.clearOutputs.sp = s.sp := rfl
@[simp] theorem State.clearOutputs_stack : s.clearOutputs.stack = s.stack := rfl
@[simp] theorem State.clearOutputs_dt : s.clearOutputs.dt = s.dt := rfl
@[simp] theorem State.clearOutputs_st : s.clearOutputs.st = s.st := rfl
@[simp] theorem State.clearOutputs_fb : s.clearOutputs.fb = s.fb := rfl
@[simp] theorem State.clearOutputs_redraw : s.clearOutputs.redraw = s.redraw := rfl
@[simp] theorem State.clearOutputs_key : s.clearOutputs.key = s.key := rfl
@[simp] theorem State.clearOutputs_mem : s.clearOutputs.mem = s.mem := rfl
@[simp] theorem State.clearOutputs_run : s.clearOutputs.run = s.run := rfl
@[simp] theorem State.clearOutputs_fault : s.clearOutputs.fault = s.fault := rfl
@[simp] theorem State.clearOutputs_faultPc : s.clearOutputs.faultPc = s.faultPc := rfl
@[simp] theorem State.clearOutputs_renderOut : s.clearOutputs.renderOut = none := rfl
@[simp] theorem State.clearOutputs_audioOut : s.clearOutputs.audioOut = false := rfl
@[simp] theorem State.clearOutputs_loader : s.clearOutputs.loader = s.loader := rfl
@[simp] theorem State.clearOutputs_keyInput : s.clearOutputs.keyInput = s.keyInput := rfl
@[simp] theorem State.clearOutputs_pollCount : s.clearOutputs.pollCount = s.pollCount := rfl
@[simp] theorem State.clearOutputs_drawInput : s.clearOutputs.drawInput = s.drawInput := rfl
@[simp] theorem State.clearOutputs_drawCount : s.clearOutputs.drawCount = s.drawCount := rfl

/-! ## beginCycle -/

@[simp] theorem State.beginCycle_v : s.beginCycle.v = s.v := rfl
@[simp] theorem State.beginCycle_index : s.beginCycle.index = s.index := rfl
@[simp] theorem State.beginCycle_pc : s.beginCycle.pc = wrapAddr (s.pc.toNat + 2) := rfl
@[simp] theorem State.beginCycle_sp : s.beginCycle.sp = s.sp := rfl
@[simp] theorem State.beginCycle_stack : s.beginCycle.stack = s.stack := rfl
@[simp] theorem State.beginCycle_dt : s.beginCycle.dt = s.dt := rfl
@[simp] theorem State.beginCycle_st : s.beginCycle.st = s.st := rfl
@[simp] theorem State.beginCycle_fb : s.beginCycle.fb = s.fb := rfl
@[simp] theorem State.beginCycle_redraw : s.beginCycle.redraw = s.redraw := rfl
@[simp] theorem State.beginCycle_key : s.beginCycle.key = s.key := rfl
@[simp] theorem State.beginCycle_mem : s.beginCycle.mem = s.mem := rfl
@[simp] theorem State.beginCycle_run : s.beginCycle.run = s.run := rfl
@[simp] theorem State.beginCycle_fault : s.beginCycle.fault = s.fault := rfl
@[simp] theorem State.beginCycle_faultPc : s.beginCycle.faultPc = s.faultPc := rfl
@[simp] theorem State.beginCycle_renderOut : s.beginCycle.renderOut = none := rfl
@[simp] theorem State.beginCycle_audioOut : s.beginCycle.audioOut = false := rfl
@[simp] theorem State.beginCycle_loader : s.beginCycle.loader = s.loader := rfl
@[simp] theorem State.beginCycle_keyInput : s.beginCycle.keyInput = s.keyInput := rfl
@[simp] theorem State.beginCycle_pollCount : s.beginCycle.pollCount = s.pollCount := rfl
@[simp] theorem State.beginCycle_drawInput : s.beginCycle.drawInput = s.drawInput := rfl
@[simp] theorem State.beginCycle_drawCount : s.beginCycle.drawCount = s.drawCount := rfl

/-! ## tick -/

@[simp] theorem State.tick_v : s.tick.v = s.v := rfl
@[simp] theorem State.tick_index : s.tick.index = s.index := rfl
@[simp] theorem State.tick_pc : s.tick.pc = s.pc := rfl
@[simp] theorem State.tick_sp : s.tick.sp = s.sp := rfl
@[simp] theorem State.tick_stack : s.tick.stack = s.stack := rfl
@[simp] theorem State.tick_dt : s.tick.dt = tickDown s.dt := rfl
@[simp] theorem State.tick_st : s.tick.st = tickDown s.st := rfl
@[simp] theorem State.tick_fb : s.tick.fb = s.fb := rfl
@[simp] theorem State.tick_redraw : s.tick.redraw = s.redraw := rfl
@[simp] theorem State.tick_key : s.tick.key = s.key := rfl
@[simp] theorem State.tick_mem : s.tick.mem = s.mem := rfl
@[simp] theorem State.tick_run : s.tick.run = s.run := rfl
@[simp] theorem State.tick_fault : s.tick.fault = s.fault := rfl
@[simp] theorem State.tick_faultPc : s.tick.faultPc = s.faultPc := rfl
@[simp] theorem State.tick_renderOut : s.tick.renderOut = s.renderOut := rfl
@[simp] theorem State.tick_audioOut : s.tick.audioOut = (s.st == 1) := rfl
@[simp] theorem State.tick_loader : s.tick.loader = s.loader := rfl
@[simp] theorem State.tick_keyInput : s.tick.keyInput = s.keyInput := rfl
@[simp] theorem State.tick_pollCount : s.tick.pollCount = s.pollCount := rfl
@[simp] theorem State.tick_drawInput : s.tick.drawInput = s.drawInput := rfl
@[simp] theorem State.tick_drawCount : s.tick.drawCount = s.drawCount := rfl

/-! ## restart -/

@[simp] theorem State.restart_v (a : LoaderAnswer) : (s.restart a).v = s.v := rfl
@[simp] theorem State.restart_index (a : LoaderAnswer) : (s.restart a).index = s.index := rfl
@[simp] theorem State.restart_pc (a : LoaderAnswer) : (s.restart a).pc = s.pc := rfl
@[simp] theorem State.restart_sp (a : LoaderAnswer) : (s.restart a).sp = s.sp := rfl
@[simp] theorem State.restart_stack (a : LoaderAnswer) : (s.restart a).stack = s.stack := rfl
@[simp] theorem State.restart_dt (a : LoaderAnswer) : (s.restart a).dt = s.dt := rfl
@[simp] theorem State.restart_st (a : LoaderAnswer) : (s.restart a).st = s.st := rfl
@[simp] theorem State.restart_fb (a : LoaderAnswer) : (s.restart a).fb = s.fb := rfl
@[simp] theorem State.restart_redraw (a : LoaderAnswer) : (s.restart a).redraw = s.redraw := rfl
@[simp] theorem State.restart_key (a : LoaderAnswer) : (s.restart a).key = s.key := rfl
@[simp] theorem State.restart_mem (a : LoaderAnswer) : (s.restart a).mem = s.mem := rfl
@[simp] theorem State.restart_run (a : LoaderAnswer) : (s.restart a).run = .boot := rfl
@[simp] theorem State.restart_fault (a : LoaderAnswer) : (s.restart a).fault = s.fault := rfl
@[simp] theorem State.restart_faultPc (a : LoaderAnswer) : (s.restart a).faultPc = s.faultPc := rfl
@[simp] theorem State.restart_renderOut (a : LoaderAnswer) : (s.restart a).renderOut = s.renderOut := rfl
@[simp] theorem State.restart_audioOut (a : LoaderAnswer) : (s.restart a).audioOut = s.audioOut := rfl
@[simp] theorem State.restart_loader (a : LoaderAnswer) : (s.restart a).loader = a := rfl
@[simp] theorem State.restart_keyInput (a : LoaderAnswer) : (s.restart a).keyInput = s.keyInput := rfl
@[simp] theorem State.restart_pollCount (a : LoaderAnswer) : (s.restart a).pollCount = s.pollCount := rfl
@[simp] theorem State.restart_drawInput (a : LoaderAnswer) : (s.restart a).drawInput = s.drawInput := rfl
@[simp] theorem State.restart_drawCount (a : LoaderAnswer) : (s.restart a).drawCount = s.drawCount := rfl

/-! ## skipIf -/

@[simp] theorem State.skipIf_v (c : Bool) : (s.skipIf c).v = s.v := by cases c <;> rfl
@[simp] theorem State.skipIf_index (c : Bool) : (s.skipIf c).index = s.index := by cases c <;> rfl
@[simp] theorem State.skipIf_sp (c : Bool) : (s.skipIf c).sp = s.sp := by cases c <;> rfl
@[simp] theorem State.skipIf_stack (c : Bool) : (s.skipIf c).stack = s.stack := by cases c <;> rfl
@[simp] theorem State.skipIf_dt (c : Bool) : (s.skipIf c).dt = s.dt := by cases c <;> rfl
@[simp] theorem State.skipIf_st (c : Bool) : (s.skipIf c).st = s.st := by cases c <;> rfl
@[simp] theorem State.skipIf_fb (c : Bool) : (s.skipIf c).fb = s.fb := by cases c <;> rfl
@[simp] theorem State.skipIf_redraw (c : Bool) : (s.skipIf c).redraw = s.redraw := by cases c <;> rfl
@[simp] theorem State.skipIf_key (c : Bool) : (s.skipIf c).key = s.key := by cases c <;> rfl
@[simp] theorem State.skipIf_mem (c : Bool) : (s.skipIf c).mem = s.mem := by cases c <;> rfl
@[simp] theorem State.skipIf_run (c : Bool) : (s.skipIf c).run = s.run := by cases c <;> rfl
@[simp] theorem State.skipIf_fault (c : Bool) : (s.skipIf c).fault = s.fault := by cases c <;> rfl
@[simp] theorem State.skipIf_faultPc (c : Bool) : (s.skipIf c).faultPc = s.faultPc := by cases c <;> rfl
@[simp] theorem State.skipIf_renderOut (c : Bool) : (s.skipIf c).renderOut = s.renderOut := by cases c <;> rfl
@[simp] theorem State.skipIf_audioOut (c : Bool) : (s.skipIf c).audioOut = s.audioOut := by cases c <;> rfl
@[simp] theorem State.skipIf_loader (c : Bool) : (s.skipIf c).loader = s.loader := by cases c <;> rfl
@[simp] theorem State.skipIf_keyInput (c : Bool) : (s.skipIf c).keyInput = s.keyInput := by cases c <;> rfl
@[simp] theorem State.skipIf_pollCount (c : Bool) : (s.skipIf c).pollCount = s.pollCount := by cases c <;> rfl
@[simp] theorem State.skipIf_drawInput (c : Bool) : (s.skipIf c).drawInput = s.drawInput := by cases c <;> rfl
@[simp] theorem State.skipIf_drawCount (c : Bool) : (s.skipIf c).drawCount = s.drawCount := by cases c <;> rfl

/-! ## setResultFlag -/

@[simp] theorem State.setResultFlag_index (o : VfDestOrder) (x : RegIx) (r f l : Byte) : (s.setResultFlag o x r f l).index = s.index := by unfold State.setResultFlag; split <;> rfl
@[simp] theorem State.setResultFlag_pc (o : VfDestOrder) (x : RegIx) (r f l : Byte) : (s.setResultFlag o x r f l).pc = s.pc := by unfold State.setResultFlag; split <;> rfl
@[simp] theorem State.setResultFlag_sp (o : VfDestOrder) (x : RegIx) (r f l : Byte) : (s.setResultFlag o x r f l).sp = s.sp := by unfold State.setResultFlag; split <;> rfl
@[simp] theorem State.setResultFlag_stack (o : VfDestOrder) (x : RegIx) (r f l : Byte) : (s.setResultFlag o x r f l).stack = s.stack := by unfold State.setResultFlag; split <;> rfl
@[simp] theorem State.setResultFlag_dt (o : VfDestOrder) (x : RegIx) (r f l : Byte) : (s.setResultFlag o x r f l).dt = s.dt := by unfold State.setResultFlag; split <;> rfl
@[simp] theorem State.setResultFlag_st (o : VfDestOrder) (x : RegIx) (r f l : Byte) : (s.setResultFlag o x r f l).st = s.st := by unfold State.setResultFlag; split <;> rfl
@[simp] theorem State.setResultFlag_fb (o : VfDestOrder) (x : RegIx) (r f l : Byte) : (s.setResultFlag o x r f l).fb = s.fb := by unfold State.setResultFlag; split <;> rfl
@[simp] theorem State.setResultFlag_redraw (o : VfDestOrder) (x : RegIx) (r f l : Byte) : (s.setResultFlag o x r f l).redraw = s.redraw := by unfold State.setResultFlag; split <;> rfl
@[simp] theorem State.setResultFlag_key (o : VfDestOrder) (x : RegIx) (r f l : Byte) : (s.setResultFlag o x r f l).key = s.key := by unfold State.setResultFlag; split <;> rfl
@[simp] theorem State.setResultFlag_mem (o : VfDestOrder) (x : RegIx) (r f l : Byte) : (s.setResultFlag o x r f l).mem = s.mem := by unfold State.setResultFlag; split <;> rfl
@[simp] theorem State.setResultFlag_run (o : VfDestOrder) (x : RegIx) (r f l : Byte) : (s.setResultFlag o x r f l).run = s.run := by unfold State.setResultFlag; split <;> rfl
@[simp] theorem State.setResultFlag_fault (o : VfDestOrder) (x : RegIx) (r f l : Byte) : (s.setResultFlag o x r f l).fault = s.fault := by unfold State.setResultFlag; split <;> rfl
@[simp] theorem State.setResultFlag_faultPc (o : VfDestOrder) (x : RegIx) (r f l : Byte) : (s.setResultFlag o x r f l).faultPc = s.faultPc := by unfold State.setResultFlag; split <;> rfl
@[simp] theorem State.setResultFlag_renderOut (o : VfDestOrder) (x : RegIx) (r f l : Byte) : (s.setResultFlag o x r f l).renderOut = s.renderOut := by unfold State.setResultFlag; split <;> rfl
@[simp] theorem State.setResultFlag_audioOut (o : VfDestOrder) (x : RegIx) (r f l : Byte) : (s.setResultFlag o x r f l).audioOut = s.audioOut := by unfold State.setResultFlag; split <;> rfl
@[simp] theorem State.setResultFlag_loader (o : VfDestOrder) (x : RegIx) (r f l : Byte) : (s.setResultFlag o x r f l).loader = s.loader := by unfold State.setResultFlag; split <;> rfl
@[simp] theorem State.setResultFlag_keyInput (o : VfDestOrder) (x : RegIx) (r f l : Byte) : (s.setResultFlag o x r f l).keyInput = s.keyInput := by unfold State.setResultFlag; split <;> rfl
@[simp] theorem State.setResultFlag_pollCount (o : VfDestOrder) (x : RegIx) (r f l : Byte) : (s.setResultFlag o x r f l).pollCount = s.pollCount := by unfold State.setResultFlag; split <;> rfl
@[simp] theorem State.setResultFlag_drawInput (o : VfDestOrder) (x : RegIx) (r f l : Byte) : (s.setResultFlag o x r f l).drawInput = s.drawInput := by unfold State.setResultFlag; split <;> rfl
@[simp] theorem State.setResultFlag_drawCount (o : VfDestOrder) (x : RegIx) (r f l : Byte) : (s.setResultFlag o x r f l).drawCount = s.drawCount := by unfold State.setResultFlag; split <;> rfl

/-! ## render -/

@[simp] theorem State.render_v : s.render.v = s.v := by unfold State.render; split <;> rfl
@[simp] theorem State.render_index : s.render.index = s.index := by unfold State.render; split <;> rfl
@[simp] theorem State.render_pc : s.render.pc = s.pc := by unfold State.render; split <;> rfl
@[simp] theorem State.render_sp : s.render.sp = s.sp := by unfold State.render; split <;> rfl
@[simp] theorem State.render_stack : s.render.stack = s.stack := by unfold State.render; split <;> rfl
@[simp] theorem State.render_dt : s.render.dt = s.dt := by unfold State.render; split <;> rfl
@[simp] theorem State.render_st : s.render.st = s.st := by unfold State.render; split <;> rfl
@[simp] theorem State.render_fb : s.render.fb = s.fb := by unfold State.render; split <;> rfl
@[simp] theorem State.render_key : s.render.key = s.key := by unfold State.render; split <;> rfl
@[simp] theorem State.render_mem : s.render.mem = s.mem := by unfold State.render; split <;> rfl
@[simp] theorem State.render_run : s.render.run = s.run := by unfold State.render; split <;> rfl
@[simp] theorem State.render_fault : s.render.fault = s.fault := by unfold State.render; split <;> rfl
@[simp] theorem State.render_faultPc : s.render.faultPc = s.faultPc := by unfold State.render; split <;> rfl
@[simp] theorem State.render_audioOut : s.render.audioOut = s.audioOut := by unfold State.render; split <;> rfl
@[simp] theorem State.render_loader : s.render.loader = s.loader := by unfold State.render; split <;> rfl
@[simp] theorem State.render_keyInput : s.render.keyInput = s.keyInput := by unfold State.render; split <;> rfl
@[simp] theorem State.render_pollCount : s.render.pollCount = s.pollCount := by unfold State.render; split <;> rfl
@[simp] theorem State.render_drawInput : s.render.drawInput = s.drawInput := by unfold State.render; split <;> rfl
@[simp] theorem State.render_drawCount : s.render.drawCount = s.drawCount := by unfold State.render; split <;> rfl

/-! ## dropDraw -/

@[simp] theorem State.dropDraw_v : s.dropDraw.v = s.v := by unfold State.dropDraw; split <;> rfl
@[simp] theorem State.dropDraw_index : s.dropDraw.index = s.index := by unfold State.dropDraw; split <;> rfl
@[simp] theorem State.dropDraw_pc : s.dropDraw.pc = s.pc := by unfold State.dropDraw; split <;> rfl
@[simp] theorem State.dropDraw_sp : s.dropDraw.sp = s.sp := by unfold State.dropDraw; split <;> rfl
@[simp] theorem State.dropDraw_stack : s.dropDraw.stack = s.stack := by unfold State.dropDraw; split <;> rfl
@[simp] theorem State.dropDraw_dt : s.dropDraw.dt = s.dt := by unfold State.dropDraw; split <;> rfl
@[simp] theorem State.dropDraw_st : s.dropDraw.st = s.st := by unfold State.dropDraw; split <;> rfl
@[simp] theorem State.dropDraw_fb : s.dropDraw.fb = s.fb := by unfold State.dropDraw; split <;> rfl
@[simp] theorem State.dropDraw_redraw : s.dropDraw.redraw = s.redraw := by unfold State.dropDraw; split <;> rfl
@[simp] theorem State.dropDraw_key : s.dropDraw.key = s.key := by unfold State.dropDraw; split <;> rfl
@[simp] theorem State.dropDraw_mem : s.dropDraw.mem = s.mem := by unfold State.dropDraw; split <;> rfl
@[simp] theorem State.dropDraw_run : s.dropDraw.run = s.run := by unfold State.dropDraw; split <;> rfl
@[simp] theorem State.dropDraw_fault : s.dropDraw.fault = s.fault := by unfold State.dropDraw; split <;> rfl
@[simp] theorem State.dropDraw_faultPc : s.dropDraw.faultPc = s.faultPc := by unfold State.dropDraw; split <;> rfl
@[simp] theorem State.dropDraw_renderOut : s.dropDraw.renderOut = s.renderOut := by unfold State.dropDraw; split <;> rfl
@[simp] theorem State.dropDraw_audioOut : s.dropDraw.audioOut = s.audioOut := by unfold State.dropDraw; split <;> rfl
@[simp] theorem State.dropDraw_loader : s.dropDraw.loader = s.loader := by unfold State.dropDraw; split <;> rfl
@[simp] theorem State.dropDraw_keyInput : s.dropDraw.keyInput = s.keyInput := by unfold State.dropDraw; split <;> rfl
@[simp] theorem State.dropDraw_pollCount : s.dropDraw.pollCount = s.pollCount := by unfold State.dropDraw; split <;> rfl

/-! ## dropKeys -/

@[simp] theorem State.dropKeys_v : s.dropKeys.v = s.v := by unfold State.dropKeys; split <;> rfl
@[simp] theorem State.dropKeys_index : s.dropKeys.index = s.index := by unfold State.dropKeys; split <;> rfl
@[simp] theorem State.dropKeys_pc : s.dropKeys.pc = s.pc := by unfold State.dropKeys; split <;> rfl
@[simp] theorem State.dropKeys_sp : s.dropKeys.sp = s.sp := by unfold State.dropKeys; split <;> rfl
@[simp] theorem State.dropKeys_stack : s.dropKeys.stack = s.stack := by unfold State.dropKeys; split <;> rfl
@[simp] theorem State.dropKeys_dt : s.dropKeys.dt = s.dt := by unfold State.dropKeys; split <;> rfl
@[simp] theorem State.dropKeys_st : s.dropKeys.st = s.st := by unfold State.dropKeys; split <;> rfl
@[simp] theorem State.dropKeys_fb : s.dropKeys.fb = s.fb := by unfold State.dropKeys; split <;> rfl
@[simp] theorem State.dropKeys_redraw : s.dropKeys.redraw = s.redraw := by unfold State.dropKeys; split <;> rfl
@[simp] theorem State.dropKeys_key : s.dropKeys.key = s.key := by unfold State.dropKeys; split <;> rfl
@[simp] theorem State.dropKeys_mem : s.dropKeys.mem = s.mem := by unfold State.dropKeys; split <;> rfl
@[simp] theorem State.dropKeys_run : s.dropKeys.run = s.run := by unfold State.dropKeys; split <;> rfl
@[simp] theorem State.dropKeys_fault : s.dropKeys.fault = s.fault := by unfold State.dropKeys; split <;> rfl
@[simp] theorem State.dropKeys_faultPc : s.dropKeys.faultPc = s.faultPc := by unfold State.dropKeys; split <;> rfl
@[simp] theorem State.dropKeys_renderOut : s.dropKeys.renderOut = s.renderOut := by unfold State.dropKeys; split <;> rfl
@[simp] theorem State.dropKeys_audioOut : s.dropKeys.audioOut = s.audioOut := by unfold State.dropKeys; split <;> rfl
@[simp] theorem State.dropKeys_loader : s.dropKeys.loader = s.loader := by unfold State.dropKeys; split <;> rfl
@[simp] theorem State.dropKeys_drawInput : s.dropKeys.drawInput = s.drawInput := by unfold State.dropKeys; split <;> rfl
@[simp] theorem State.dropKeys_drawCount : s.dropKeys.drawCount = s.drawCount := by unfold State.dropKeys; split <;> rfl

/-! ## poll -/

@[simp] theorem State.poll_v : s.poll.v = s.v := by simp [State.poll]
@[simp] theorem State.poll_index : s.poll.index = s.index := by simp [State.poll]
@[simp] theorem State.poll_pc : s.poll.pc = s.pc := by simp [State.poll]
@[simp] theorem State.poll_sp : s.poll.sp = s.sp := by simp [State.poll]
@[simp] theorem State.poll_stack : s.poll.stack = s.stack := by simp [State.poll]
@[simp] theorem State.poll_dt : s.poll.dt = s.dt := by simp [State.poll]
@[simp] theorem State.poll_st : s.poll.st = s.st := by simp [State.poll]
@[simp] theorem State.poll_fb : s.poll.fb = s.fb := by simp [State.poll]
@[simp] theorem State.poll_redraw : s.poll.redraw = s.redraw := by simp [State.poll]
@[simp] theorem State.poll_key : s.poll.key = s.nextKeys := rfl
@[simp] theorem State.poll_mem : s.poll.mem = s.mem := by simp [State.poll]
@[simp] theorem State.poll_run : s.poll.run = s.run := by simp [State.poll]
@[simp] theorem State.poll_fault : s.poll.fault = s.fault := by simp [State.poll]
@[simp] theorem State.poll_faultPc : s.poll.faultPc = s.faultPc := by simp [State.poll]
@[simp] theorem State.poll_renderOut : s.poll.renderOut = s.renderOut := by simp [State.poll]
@[simp] theorem State.poll_audioOut : s.poll.audioOut = s.audioOut := by simp [State.poll]
@[simp] theorem State.poll_loader : s.poll.loader = s.loader := by simp [State.poll]
@[simp] theorem State.poll_drawInput : s.poll.drawInput = s.drawInput := by simp [State.poll]
@[simp] theorem State.poll_drawCount : s.poll.drawCount = s.drawCount := by simp [State.poll]

/-! ## writeBytes and loadRegs -/

@[simp] theorem State.writeBytes_v (bs : List Byte) (k : Nat) :
    (s.writeBytes k bs).v = s.v := by
  induction bs generalizing s k with
  | nil => rfl
  | cons b rest ih => simp [State.writeBytes, ih]

@[simp] theorem State.writeBytes_index (bs : List Byte) (k : Nat) :
    (s.writeBytes k bs).index = s.index := by
  induction bs generalizing s k with
  | nil => rfl
  | cons b rest ih => simp [State.writeBytes, ih]

@[simp] theorem State.writeBytes_pc (bs : List Byte) (k : Nat) :
    (s.writeBytes k bs).pc = s.pc := by
  induction bs generalizing s k with
  | nil => rfl
  | cons b rest ih => simp [State.writeBytes, ih]

@[simp] theorem State.writeBytes_sp (bs : List Byte) (k : Nat) :
    (s.writeBytes k bs).sp = s.sp := by
  induction bs generalizing s k with
  | nil => rfl
  | cons b rest ih => simp [State.writeBytes, ih]

@[simp] theorem State.writeBytes_stack (bs : List Byte) (k : Nat) :
    (s.writeBytes k bs).stack = s.stack := by
  induction bs generalizing s k with
  | nil => rfl
  | cons b rest ih => simp [State.writeBytes, ih]

@[simp] theorem State.writeBytes_dt (bs : List Byte) (k : Nat) :
    (s.writeBytes k bs).dt = s.dt := by
  induction bs generalizing s k with
  | nil => rfl
  | cons b rest ih => simp [State.writeBytes, ih]

@[simp] theorem State.writeBytes_st (bs : List Byte) (k : Nat) :
    (s.writeBytes k bs).st = s.st := by
  induction bs generalizing s k with
  | nil => rfl
  | cons b rest ih => simp [State.writeBytes, ih]

@[simp] theorem State.writeBytes_fb (bs : List Byte) (k : Nat) :
    (s.writeBytes k bs).fb = s.fb := by
  induction bs generalizing s k with
  | nil => rfl
  | cons b rest ih => simp [State.writeBytes, ih]

@[simp] theorem State.writeBytes_redraw (bs : List Byte) (k : Nat) :
    (s.writeBytes k bs).redraw = s.redraw := by
  induction bs generalizing s k with
  | nil => rfl
  | cons b rest ih => simp [State.writeBytes, ih]

@[simp] theorem State.writeBytes_key (bs : List Byte) (k : Nat) :
    (s.writeBytes k bs).key = s.key := by
  induction bs generalizing s k with
  | nil => rfl
  | cons b rest ih => simp [State.writeBytes, ih]

@[simp] theorem State.writeBytes_run (bs : List Byte) (k : Nat) :
    (s.writeBytes k bs).run = s.run := by
  induction bs generalizing s k with
  | nil => rfl
  | cons b rest ih => simp [State.writeBytes, ih]

@[simp] theorem State.writeBytes_fault (bs : List Byte) (k : Nat) :
    (s.writeBytes k bs).fault = s.fault := by
  induction bs generalizing s k with
  | nil => rfl
  | cons b rest ih => simp [State.writeBytes, ih]

@[simp] theorem State.writeBytes_faultPc (bs : List Byte) (k : Nat) :
    (s.writeBytes k bs).faultPc = s.faultPc := by
  induction bs generalizing s k with
  | nil => rfl
  | cons b rest ih => simp [State.writeBytes, ih]

@[simp] theorem State.writeBytes_renderOut (bs : List Byte) (k : Nat) :
    (s.writeBytes k bs).renderOut = s.renderOut := by
  induction bs generalizing s k with
  | nil => rfl
  | cons b rest ih => simp [State.writeBytes, ih]

@[simp] theorem State.writeBytes_audioOut (bs : List Byte) (k : Nat) :
    (s.writeBytes k bs).audioOut = s.audioOut := by
  induction bs generalizing s k with
  | nil => rfl
  | cons b rest ih => simp [State.writeBytes, ih]

@[simp] theorem State.writeBytes_loader (bs : List Byte) (k : Nat) :
    (s.writeBytes k bs).loader = s.loader := by
  induction bs generalizing s k with
  | nil => rfl
  | cons b rest ih => simp [State.writeBytes, ih]

@[simp] theorem State.writeBytes_keyInput (bs : List Byte) (k : Nat) :
    (s.writeBytes k bs).keyInput = s.keyInput := by
  induction bs generalizing s k with
  | nil => rfl
  | cons b rest ih => simp [State.writeBytes, ih]

@[simp] theorem State.writeBytes_pollCount (bs : List Byte) (k : Nat) :
    (s.writeBytes k bs).pollCount = s.pollCount := by
  induction bs generalizing s k with
  | nil => rfl
  | cons b rest ih => simp [State.writeBytes, ih]

@[simp] theorem State.writeBytes_drawInput (bs : List Byte) (k : Nat) :
    (s.writeBytes k bs).drawInput = s.drawInput := by
  induction bs generalizing s k with
  | nil => rfl
  | cons b rest ih => simp [State.writeBytes, ih]

@[simp] theorem State.writeBytes_drawCount (bs : List Byte) (k : Nat) :
    (s.writeBytes k bs).drawCount = s.drawCount := by
  induction bs generalizing s k with
  | nil => rfl
  | cons b rest ih => simp [State.writeBytes, ih]

@[simp] theorem State.loadRegs_index (xs : List RegIx) : (s.loadRegs xs).index = s.index := by
  induction xs generalizing s with
  | nil => rfl
  | cons x rest ih => simp [State.loadRegs, ih]

@[simp] theorem State.loadRegs_pc (xs : List RegIx) : (s.loadRegs xs).pc = s.pc := by
  induction xs generalizing s with
  | nil => rfl
  | cons x rest ih => simp [State.loadRegs, ih]

@[simp] theorem State.loadRegs_sp (xs : List RegIx) : (s.loadRegs xs).sp = s.sp := by
  induction xs generalizing s with
  | nil => rfl
  | cons x rest ih => simp [State.loadRegs, ih]

@[simp] theorem State.loadRegs_stack (xs : List RegIx) : (s.loadRegs xs).stack = s.stack := by
  induction xs generalizing s with
  | nil => rfl
  | cons x rest ih => simp [State.loadRegs, ih]

@[simp] theorem State.loadRegs_dt (xs : List RegIx) : (s.loadRegs xs).dt = s.dt := by
  induction xs generalizing s with
  | nil => rfl
  | cons x rest ih => simp [State.loadRegs, ih]

@[simp] theorem State.loadRegs_st (xs : List RegIx) : (s.loadRegs xs).st = s.st := by
  induction xs generalizing s with
  | nil => rfl
  | cons x rest ih => simp [State.loadRegs, ih]

@[simp] theorem State.loadRegs_fb (xs : List RegIx) : (s.loadRegs xs).fb = s.fb := by
  induction xs generalizing s with
  | nil => rfl
  | cons x rest ih => simp [State.loadRegs, ih]

@[simp] theorem State.loadRegs_redraw (xs : List RegIx) : (s.loadRegs xs).redraw = s.redraw := by
  induction xs generalizing s with
  | nil => rfl
  | cons x rest ih => simp [State.loadRegs, ih]

@[simp] theorem State.loadRegs_key (xs : List RegIx) : (s.loadRegs xs).key = s.key := by
  induction xs generalizing s with
  | nil => rfl
  | cons x rest ih => simp [State.loadRegs, ih]

@[simp] theorem State.loadRegs_mem (xs : List RegIx) : (s.loadRegs xs).mem = s.mem := by
  induction xs generalizing s with
  | nil => rfl
  | cons x rest ih => simp [State.loadRegs, ih]

@[simp] theorem State.loadRegs_run (xs : List RegIx) : (s.loadRegs xs).run = s.run := by
  induction xs generalizing s with
  | nil => rfl
  | cons x rest ih => simp [State.loadRegs, ih]

@[simp] theorem State.loadRegs_fault (xs : List RegIx) : (s.loadRegs xs).fault = s.fault := by
  induction xs generalizing s with
  | nil => rfl
  | cons x rest ih => simp [State.loadRegs, ih]

@[simp] theorem State.loadRegs_faultPc (xs : List RegIx) : (s.loadRegs xs).faultPc = s.faultPc := by
  induction xs generalizing s with
  | nil => rfl
  | cons x rest ih => simp [State.loadRegs, ih]

@[simp] theorem State.loadRegs_renderOut (xs : List RegIx) : (s.loadRegs xs).renderOut = s.renderOut := by
  induction xs generalizing s with
  | nil => rfl
  | cons x rest ih => simp [State.loadRegs, ih]

@[simp] theorem State.loadRegs_audioOut (xs : List RegIx) : (s.loadRegs xs).audioOut = s.audioOut := by
  induction xs generalizing s with
  | nil => rfl
  | cons x rest ih => simp [State.loadRegs, ih]

@[simp] theorem State.loadRegs_loader (xs : List RegIx) : (s.loadRegs xs).loader = s.loader := by
  induction xs generalizing s with
  | nil => rfl
  | cons x rest ih => simp [State.loadRegs, ih]

@[simp] theorem State.loadRegs_keyInput (xs : List RegIx) : (s.loadRegs xs).keyInput = s.keyInput := by
  induction xs generalizing s with
  | nil => rfl
  | cons x rest ih => simp [State.loadRegs, ih]

@[simp] theorem State.loadRegs_pollCount (xs : List RegIx) : (s.loadRegs xs).pollCount = s.pollCount := by
  induction xs generalizing s with
  | nil => rfl
  | cons x rest ih => simp [State.loadRegs, ih]

@[simp] theorem State.loadRegs_drawInput (xs : List RegIx) : (s.loadRegs xs).drawInput = s.drawInput := by
  induction xs generalizing s with
  | nil => rfl
  | cons x rest ih => simp [State.loadRegs, ih]

@[simp] theorem State.loadRegs_drawCount (xs : List RegIx) : (s.loadRegs xs).drawCount = s.drawCount := by
  induction xs generalizing s with
  | nil => rfl
  | cons x rest ih => simp [State.loadRegs, ih]

end Sys2Proof.Machine
end

