-- ==== Sys2Proof/Laws/Ops.lean ====
section
/-! SUPPORT. What each shared operation can do, said once: registers, addresses, faults, stores, loads and
the draw. -/

namespace Sys2Proof.Machine

/-! ## Registers -/

/-- Reading a register after a write. -/
theorem State.getV_setV (s : State) (x j : RegIx) (b : Byte) :
    (s.setV x b).getV j = if j = x then b else s.getV j := by
  simp only [State.getV, State.setV, Fin.getElem_fin, Vector.getElem_set]
  by_cases h : j = x
  · simp [h]
  · have : x.val ≠ j.val := fun e => h (Fin.ext e.symm)
    simp [h, this]

@[simp] theorem State.getV_setV_same (s : State) (x : RegIx) (b : Byte) : (s.setV x b).getV x = b := by
  simp [State.getV_setV]

/-- A register file is determined by the reads. -/
theorem regs_ext {v w : Vector Byte 16} (h : ∀ j : RegIx, v[j] = w[j]) : v = w :=
  Vector.ext fun i hi => h ⟨i, hi⟩

/-! ## Addresses -/

@[simp] theorem wrapAddr_toNat (n : Nat) : (wrapAddr n).toNat = n % 4096 := by
  simp [wrapAddr, memSize]; omega

/-- A data address always exists (20_memory.md R57). -/
theorem State.ea_lt (s : State) (k : Nat) : s.ea k < memSize := Nat.mod_lt _ (by decide)

/-- The address of the opcode is the pc before the pre-advance, for every pc that can be fetched at. -/
theorem State.opAddr_beginCycle (s : State) (h : s.pc.toNat ≤ 0xFFE) : s.beginCycle.opAddr = s.pc := by
  apply BitVec.eq_of_toNat_eq
  simp only [State.opAddr, wrapAddr_toNat, State.beginCycle_pc, BitVec.toNat_sub]
  simp
  omega

@[simp] theorem addrOf_toNat (nnn : BitVec 12) : (addrOf nnn).toNat = nnn.toNat := by
  simp [addrOf]; omega

/-! ## Reserved range and stores -/

/-- The check of the reserved range, in words (20_memory.md R60). -/
theorem State.touchesReserved_iff (s : State) (n : Nat) :
    s.touchesReserved n = true ↔ ∃ k < n, s.ea k < 0x200 := by
  simp [State.touchesReserved]

theorem State.touchesReserved_false_iff (s : State) (n : Nat) :
    s.touchesReserved n = false ↔ ∀ k < n, 0x200 ≤ s.ea k := by
  simp [State.touchesReserved]

@[simp] theorem State.ea_memWrite (s : State) (a : Nat) (b : Byte) (k : Nat) :
    (s.memWrite a b).ea k = s.ea k := rfl

/-- A multi-byte store leaves every other address as it was. -/
theorem State.memRead_writeBytes_other (s : State) (k : Nat) (bs : List Byte) {a : Nat}
    (h : ∀ j < bs.length, a ≠ s.ea (k + j)) : (s.writeBytes k bs).memRead a = s.memRead a := by
  induction bs generalizing s k with
  | nil => rfl
  | cons b rest ih =>
    rw [State.writeBytes, ih]
    · exact Memory.read_write_other _ _ (by simpa using h 0 (by simp))
    · intro j hj
      have := h (j + 1) (by simpa using hj)
      simpa [Nat.add_assoc, Nat.add_comm 1 j] using this

/-- Up to 4096 bytes from I on lie at different addresses. -/
theorem State.ea_inj (s : State) {j k : Nat} (hj : j < k) (hk : k < j + 4096) : s.ea j ≠ s.ea k := by
  simp only [State.ea, memSize]; omega

/-- A multi-byte store keeps the canonical form of memory. -/
theorem State.writeBytes_wf (s : State) (k : Nat) (bs : List Byte) (hm : Memory.wf s.mem = true) :
    Memory.wf (s.writeBytes k bs).mem = true := by
  induction bs generalizing s k with
  | nil => exact hm
  | cons b rest ih => exact ih _ _ (Memory.write_wf b hm (s.ea_lt k))

/-- A multi-byte store puts the j-th byte at its address. -/
theorem State.memRead_writeBytes_same (s : State) (k : Nat) (bs : List Byte) (hm : Memory.wf s.mem = true)
    (hlen : bs.length ≤ 4096) {j : Nat} (hj : j < bs.length) :
    (s.writeBytes k bs).memRead (s.ea (k + j)) = bs[j] := by
  induction bs generalizing s k j with
  | nil => simp at hj
  | cons b rest ih =>
    simp only [List.length_cons] at hj hlen
    rw [State.writeBytes]
    cases j with
    | zero =>
      rw [State.memRead_writeBytes_other _ _ _ (fun i hi => by
        simpa using s.ea_inj (j := k) (k := k + 1 + i) (by omega) (by omega))]
      exact Memory.read_write_same hm _ _
    | succ j =>
      have := ih (s.memWrite (s.ea k) b) (k + 1) (Memory.write_wf b hm (s.ea_lt k)) (by omega)
        (j := j) (by omega)
      simpa [Nat.add_assoc, Nat.add_comm 1 j] using this

/-- What the multi-byte store can answer: RESERVED_WRITE, or the bytes written. -/
theorem storeBytes_cases (bs : List Byte) (s : State) :
    (s.touchesReserved bs.length = true ∧ storeBytes bs s = .next (s.enterFaulted .reservedWrite s.opAddr)) ∨
    (s.touchesReserved bs.length = false ∧ storeBytes bs s = .next (s.writeBytes 0 bs)) := by
  unfold storeBytes raise
  cases h : s.touchesReserved bs.length <;> simp

/-! ## Loads -/

/-- Loading a list of registers: each one in the list takes its byte, the others keep theirs. -/
theorem State.getV_loadRegs (s : State) (xs : List RegIx) (j : RegIx) :
    (s.loadRegs xs).getV j = if j ∈ xs then s.memRead (s.ea j.val) else s.getV j := by
  induction xs generalizing s with
  | nil => rfl
  | cons x rest ih =>
    have hm : ∀ a, (s.setV x (s.memRead (s.ea x.val))).memRead a = s.memRead a := fun _ => rfl
    have he : ∀ k, (s.setV x (s.memRead (s.ea x.val))).ea k = s.ea k := fun _ => rfl
    rw [State.loadRegs, ih, hm, he, State.getV_setV]
    by_cases h1 : j ∈ rest <;> by_cases h2 : j = x <;> simp [h1, h2]

/-- The registers V[0]..V[x] as a list of indexes. -/
theorem mem_take_finRange (x j : RegIx) : j ∈ (List.finRange 16).take (x.val + 1) ↔ j ≤ x := by
  revert x j; decide

/-! ## Flags -/

/-- Reading a register after a result and its flag were written (42_alu.md R173). -/
theorem State.getV_setResultFlag (o : VfDestOrder) (s : State) (x j : RegIx) (r f l : Byte) :
    (s.setResultFlag o x r f l).getV j =
      if x = vf then (if j = vf then vfAsDest o r f l else s.getV j)
      else if j = vf then f else if j = x then r else s.getV j := by
  unfold State.setResultFlag
  split
  · simp [State.getV_setV]
  · simp [State.getV_setV]

/-! ## Results -/

/-- A raised fault is a next state in FAULTED (60_exceptions.md R260). -/
theorem raise_eq (k : FaultKind) (s : State) : raise k s = .next (s.enterFaulted k s.opAddr) := rfl

/-- A draw is at most 254 (42_alu.md R171). -/
theorem State.nextDraw_le (s : State) : s.nextDraw.val ≤ 254 := by
  have := s.nextDraw.isLt; omega

/-- What the rest of the cycle can do after a behaviour that answers a next state. -/
theorem afterExecute_next (s : State) :
    afterExecute (.next s) = .next (if s.run = .faulted then s else s.finishCycle) := by
  simp only [afterExecute]; split <;> rfl

/-- A tick takes one from a timer, not below 0. -/
@[simp] theorem tickDown_toNat (t : Byte) : (tickDown t).toNat = t.toNat - 1 := by
  revert t
  decide

end Sys2Proof.Machine
end

