-- ==== Sys2Proof/Laws/Operands.lean ====
section
/-! SUPPORT. What each operand form answers, so that no proof about an instruction unfolds it. -/

namespace Sys2Proof.Machine

/-- A key index of at most 15 names that key's flag. -/
theorem State.keyOf?_of_eq (s : State) (x : RegIx) (k : Fin 16) (h : (s.getV x).toNat = k.val) :
    s.keyOf? x = some s.key[k] := by
  simp [State.keyOf?, h]

/-- A key index above 15 names no key. -/
theorem State.keyOf?_of_gt (s : State) (x : RegIx) (h : 15 < (s.getV x).toNat) : s.keyOf? x = none := by
  simp [State.keyOf?]
  omega

/-- A digit of at most 15 has a glyph address; no address wraps. -/
theorem State.glyphAddr?_of_le (s : State) (x : RegIx) (h : (s.getV x).toNat ≤ 15) :
    ∃ a, s.glyphAddr? x = some a ∧ a.toNat = Config.glyphBase.val + 5 * (s.getV x).toNat := by
  refine ⟨_, if_pos h, ?_⟩
  have := Config.glyphBase.isLt
  rw [glyphBase, BitVec.toNat_ofNat, Nat.mod_eq_of_lt (by omega)]

/-- A digit above 15 has no glyph address. -/
theorem State.glyphAddr?_of_gt (s : State) (x : RegIx) (h : 15 < (s.getV x).toNat) :
    s.glyphAddr? x = none := if_neg (by omega)

/-- No key is down exactly when every flag is false. -/
theorem State.pressedCount_eq_zero (s : State) : s.pressedCount = 0 ↔ ∀ k : Fin 16, s.key[k] = false := by
  simp only [State.pressedCount, List.countP_eq_zero]
  constructor
  · intro h k
    simpa using h s.key[k] (by simp)
  · intro h b hb
    obtain ⟨i, hi, rfl⟩ := List.getElem_of_mem hb
    simp at hi
    simpa using h ⟨i, by simpa using hi⟩

/-- Fx55 and Fx65 move x + 1 registers. -/
@[simp] theorem State.regsUpTo_length (s : State) (x : RegIx) : (s.regsUpTo x).length = x.val + 1 := by
  have := x.isLt
  simp [State.regsUpTo]

/-- The pc a skip leaves. -/
theorem State.skipIf_pc (c : Bool) (s : State) :
    (s.skipIf c).pc.toNat = if c = true then (s.pc.toNat + 2) % 4096 else s.pc.toNat := by
  cases c
  · rfl
  · simp [State.skipIf, State.skip]

/-- A skip changes pc only. -/
theorem State.skipIf_frame (c : Bool) (s : State) : s.skipIf c = { s with pc := (s.skipIf c).pc } := by
  cases c <;> rfl

end Sys2Proof.Machine
end

