-- ==== Sys2Proof/Laws/PerInstr.lean ====
section
/-! SUPPORT. Statements made per instruction, one lemma per constructor of Instr. -/

namespace Sys2Proof.Laws.EncodedWord

/-- The encoded word of a well-formed instruction matches a row of the dispatch table whose behaviour on
that word is the instruction (30_encoding.md R84, R91). -/
def Statement (i : Instr) : Prop :=
  WellFormed i = true → ∃ r ∈ dispatchTable, r.matchesOp (encode i) = true ∧ r.behaviour (encode i) = i

/-- The statement, from the number of the row (the first is 0). -/
theorem of_row {i : Instr} (n : Nat) (h : n < dispatchTable.length)
    (hm : dispatchTable[n].matchesOp (encode i) = true) (hb : dispatchTable[n].behaviour (encode i) = i) :
    Statement i :=
  fun _ => ⟨_, List.getElem_mem h, hm, hb⟩

/-- The mask 0xF000 on a word in NNN form. -/
theorem matches_nnn (c : Nat) (hc : c < 16) (nnn : BitVec 12) :
    wordNNN c nnn &&& 0xF000#16 = BitVec.ofNat 16 (c * 4096) := by
  apply BitVec.eq_of_toNat_eq
  rw [and_F000, (nnn_fields c hc nnn).1, BitVec.toNat_ofNat, Nat.mod_eq_of_lt (by omega)]

/-- The mask 0xF000 on a word in XKK form. -/
theorem matches_xkk (c : Nat) (hc : c < 16) (x : RegIx) (kk : Byte) :
    wordXKK c x kk.toNat &&& 0xF000#16 = BitVec.ofNat 16 (c * 4096) := by
  apply BitVec.eq_of_toNat_eq
  rw [and_F000, (xkk_fields c hc x kk).1, BitVec.toNat_ofNat, Nat.mod_eq_of_lt (by omega)]

/-- The mask 0xF000 on a word of four nibbles. -/
theorem matches_class (c : Nat) (hc : c < 16) (x y : RegIx) (n : Nat) (hn : n < 16) :
    wordOfNibbles c x y n &&& 0xF000#16 = BitVec.ofNat 16 (c * 4096) := by
  apply BitVec.eq_of_toNat_eq
  rw [and_F000, (nibble_fields c hc x y n hn).1, BitVec.toNat_ofNat, Nat.mod_eq_of_lt (by omega)]

/-- The mask 0xF00F on a word of class 8. -/
theorem matches_class8 (x y : RegIx) (n : Nat) (hn : n < 16) :
    wordOfNibbles 8 x y n &&& 0xF00F#16 = BitVec.ofNat 16 (0x8000 + n) := by
  obtain ⟨hc, _, _, _, hf⟩ := nibble_fields 8 (by decide) x y n hn
  apply BitVec.eq_of_toNat_eq
  rw [and_F00F, hc, hf, BitVec.toNat_ofNat, Nat.mod_eq_of_lt (by omega)]

/-- Row 1 of the table. -/
theorem sys (nnn : BitVec 12) : Statement (.sys nnn) :=
  of_row 0 (by decide) (beq_iff_eq.2 (matches_nnn 0x0 (by decide) nnn))
    (congrArg Instr.sys (nnn_fields 0x0 (by decide) nnn).2)

/-- Row 2 of the table. -/
theorem cls : Statement .cls :=
  of_row 1 (by decide) rfl rfl

/-- Row 3 of the table. -/
theorem ret : Statement .ret :=
  of_row 2 (by decide) rfl rfl

/-- Row 4 of the table. -/
theorem jp (nnn : BitVec 12) : Statement (.jp nnn) :=
  of_row 3 (by decide) (beq_iff_eq.2 (matches_nnn 0x1 (by decide) nnn))
    (congrArg Instr.jp (nnn_fields 0x1 (by decide) nnn).2)

/-- Row 5 of the table. -/
theorem call (nnn : BitVec 12) : Statement (.call nnn) :=
  of_row 4 (by decide) (beq_iff_eq.2 (matches_nnn 0x2 (by decide) nnn))
    (congrArg Instr.call (nnn_fields 0x2 (by decide) nnn).2)

/-- Row 6 of the table. -/
theorem seImm (x : RegIx) (kk : Byte) : Statement (.seImm x kk) := by
  obtain ⟨_, hx, hk⟩ := xkk_fields 0x3 (by decide) x kk
  exact of_row 5 (by decide) (beq_iff_eq.2 (matches_xkk 0x3 (by decide) x kk))
    (congr (congrArg Instr.seImm hx) hk)

/-- Row 7 of the table. -/
theorem seReg (x y : RegIx) : Statement (.seReg x y) := by
  obtain ⟨_, hx, hy, _, _⟩ := nibble_fields 0x5 (by decide) x y 0x0 (by decide)
  exact of_row 6 (by decide) (beq_iff_eq.2 (matches_class 0x5 (by decide) x y 0x0 (by decide)))
    (congr (congrArg Instr.seReg hx) hy)

/-- Row 8 of the table. -/
theorem sneImm (x : RegIx) (kk : Byte) : Statement (.sneImm x kk) := by
  obtain ⟨_, hx, hk⟩ := xkk_fields 0x4 (by decide) x kk
  exact of_row 7 (by decide) (beq_iff_eq.2 (matches_xkk 0x4 (by decide) x kk))
    (congr (congrArg Instr.sneImm hx) hk)

/-- Row 9 of the table. -/
theorem sneReg (x y : RegIx) : Statement (.sneReg x y) := by
  obtain ⟨_, hx, hy, _, _⟩ := nibble_fields 0x9 (by decide) x y 0x0 (by decide)
  exact of_row 8 (by decide) (beq_iff_eq.2 (matches_class 0x9 (by decide) x y 0x0 (by decide)))
    (congr (congrArg Instr.sneReg hx) hy)

/-- Row 10 of the table. -/
theorem ldImm (x : RegIx) (kk : Byte) : Statement (.ldImm x kk) := by
  obtain ⟨_, hx, hk⟩ := xkk_fields 0x6 (by decide) x kk
  exact of_row 9 (by decide) (beq_iff_eq.2 (matches_xkk 0x6 (by decide) x kk))
    (congr (congrArg Instr.ldImm hx) hk)

/-- Row 11 of the table. -/
theorem addImm (x : RegIx) (kk : Byte) : Statement (.addImm x kk) := by
  obtain ⟨_, hx, hk⟩ := xkk_fields 0x7 (by decide) x kk
  exact of_row 10 (by decide) (beq_iff_eq.2 (matches_xkk 0x7 (by decide) x kk))
    (congr (congrArg Instr.addImm hx) hk)

/-- Row 12 of the table. -/
theorem ldReg (x y : RegIx) : Statement (.ldReg x y) := by
  obtain ⟨_, hx, hy, _, _⟩ := nibble_fields 0x8 (by decide) x y 0x0 (by decide)
  exact of_row 11 (by decide) (beq_iff_eq.2 (matches_class8 x y 0x0 (by decide)))
    (congr (congrArg Instr.ldReg hx) hy)

/-- Row 13 of the table. -/
theorem orReg (x y : RegIx) : Statement (.orReg x y) := by
  obtain ⟨_, hx, hy, _, _⟩ := nibble_fields 0x8 (by decide) x y 0x1 (by decide)
  exact of_row 12 (by decide) (beq_iff_eq.2 (matches_class8 x y 0x1 (by decide)))
    (congr (congrArg Instr.orReg hx) hy)

/-- Row 14 of the table. -/
theorem andReg (x y : RegIx) : Statement (.andReg x y) := by
  obtain ⟨_, hx, hy, _, _⟩ := nibble_fields 0x8 (by decide) x y 0x2 (by decide)
  exact of_row 13 (by decide) (beq_iff_eq.2 (matches_class8 x y 0x2 (by decide)))
    (congr (congrArg Instr.andReg hx) hy)

/-- Row 15 of the table. -/
theorem xorReg (x y : RegIx) : Statement (.xorReg x y) := by
  obtain ⟨_, hx, hy, _, _⟩ := nibble_fields 0x8 (by decide) x y 0x3 (by decide)
  exact of_row 14 (by decide) (beq_iff_eq.2 (matches_class8 x y 0x3 (by decide)))
    (congr (congrArg Instr.xorReg hx) hy)

/-- Row 16 of the table. -/
theorem addReg (x y : RegIx) : Statement (.addReg x y) := by
  obtain ⟨_, hx, hy, _, _⟩ := nibble_fields 0x8 (by decide) x y 0x4 (by decide)
  exact of_row 15 (by decide) (beq_iff_eq.2 (matches_class8 x y 0x4 (by decide)))
    (congr (congrArg Instr.addReg hx) hy)

/-- Row 17 of the table. -/
theorem subReg (x y : RegIx) : Statement (.subReg x y) := by
  obtain ⟨_, hx, hy, _, _⟩ := nibble_fields 0x8 (by decide) x y 0x5 (by decide)
  exact of_row 16 (by decide) (beq_iff_eq.2 (matches_class8 x y 0x5 (by decide)))
    (congr (congrArg Instr.subReg hx) hy)

/-- Row 18 of the table. -/
theorem subnReg (x y : RegIx) : Statement (.subnReg x y) := by
  obtain ⟨_, hx, hy, _, _⟩ := nibble_fields 0x8 (by decide) x y 0x7 (by decide)
  exact of_row 17 (by decide) (beq_iff_eq.2 (matches_class8 x y 0x7 (by decide)))
    (congr (congrArg Instr.subnReg hx) hy)

/-- Row 19 of the table. -/
theorem shr (x : RegIx) : Statement (.shr x) :=
  of_row 18 (by decide) (by revert x; decide)
    (by revert x; decide)

/-- Row 20 of the table. -/
theorem shl (x : RegIx) : Statement (.shl x) :=
  of_row 19 (by decide) (by revert x; decide)
    (by revert x; decide)

/-- Row 21 of the table. -/
theorem ldI (nnn : BitVec 12) : Statement (.ldI nnn) :=
  of_row 20 (by decide) (beq_iff_eq.2 (matches_nnn 0xA (by decide) nnn))
    (congrArg Instr.ldI (nnn_fields 0xA (by decide) nnn).2)

/-- Row 22 of the table. -/
theorem jpV0 (nnn : BitVec 12) : Statement (.jpV0 nnn) :=
  of_row 21 (by decide) (beq_iff_eq.2 (matches_nnn 0xB (by decide) nnn))
    (congrArg Instr.jpV0 (nnn_fields 0xB (by decide) nnn).2)

/-- Row 23 of the table. -/
theorem rnd (x : RegIx) (kk : Byte) : Statement (.rnd x kk) := by
  obtain ⟨_, hx, hk⟩ := xkk_fields 0xC (by decide) x kk
  exact of_row 22 (by decide) (beq_iff_eq.2 (matches_xkk 0xC (by decide) x kk))
    (congr (congrArg Instr.rnd hx) hk)

/-- Row 24 of the table. -/
theorem drw (x y : RegIx) (n : BitVec 4) : Statement (.drw x y n) := by
  obtain ⟨_, hx, hy, hn, _⟩ := nibble_fields 0xD (by decide) x y n.toNat n.isLt
  exact of_row 23 (by decide) (beq_iff_eq.2 (matches_class 0xD (by decide) x y n.toNat n.isLt))
    (congr (congr (congrArg Instr.drw hx) hy) (hn.trans (by simp)))

/-- Row 25 of the table. -/
theorem skp (x : RegIx) : Statement (.skp x) :=
  of_row 24 (by decide) (by revert x; decide)
    (by revert x; decide)

/-- Row 26 of the table. -/
theorem sknp (x : RegIx) : Statement (.sknp x) :=
  of_row 25 (by decide) (by revert x; decide)
    (by revert x; decide)

/-- Row 27 of the table. -/
theorem ldVxDt (x : RegIx) : Statement (.ldVxDt x) :=
  of_row 26 (by decide) (by revert x; decide)
    (by revert x; decide)

/-- Row 28 of the table. -/
theorem ldVxK (x : RegIx) : Statement (.ldVxK x) :=
  of_row 27 (by decide) (by revert x; decide)
    (by revert x; decide)

/-- Row 29 of the table. -/
theorem ldDtVx (x : RegIx) : Statement (.ldDtVx x) :=
  of_row 28 (by decide) (by revert x; decide)
    (by revert x; decide)

/-- Row 30 of the table. -/
theorem ldStVx (x : RegIx) : Statement (.ldStVx x) :=
  of_row 29 (by decide) (by revert x; decide)
    (by revert x; decide)

/-- Row 31 of the table. -/
theorem addI (x : RegIx) : Statement (.addI x) :=
  of_row 30 (by decide) (by revert x; decide)
    (by revert x; decide)

/-- Row 32 of the table. -/
theorem ldF (x : RegIx) : Statement (.ldF x) :=
  of_row 31 (by decide) (by revert x; decide)
    (by revert x; decide)

/-- Row 33 of the table. -/
theorem ldB (x : RegIx) : Statement (.ldB x) :=
  of_row 32 (by decide) (by revert x; decide)
    (by revert x; decide)

/-- Row 34 of the table. -/
theorem ldMemVx (x : RegIx) : Statement (.ldMemVx x) :=
  of_row 33 (by decide) (by revert x; decide)
    (by revert x; decide)

/-- Row 35 of the table. -/
theorem ldVxMem (x : RegIx) : Statement (.ldVxMem x) :=
  of_row 34 (by decide) (by revert x; decide)
    (by revert x; decide)

end Sys2Proof.Laws.EncodedWord
end

