-- ==== Sys2Proof/Tests/Slice0.lean ====
section
/-! SUPPORT. Tests against the words and vectors of the spec (30_encoding.md R84, 95_test_vectors.md), and,
for each statement with hypotheses, a state and operands that meet them. -/

namespace Sys2Proof.Tests

open Sys2Proof Sys2Proof.Machine

/-! ## Helpers -/

/-- A state with these general registers and the rest as after reset. -/
def regs (vs : List (RegIx × Byte)) : State := vs.foldl (fun s r => s.setV r.1 r.2) State.reset

/-- A state with one key down. -/
def down (k : Fin 16) (s : State) : State := { s with key := s.key.set k true }

/-- A state with bytes of the program region from 0x300 on. -/
def at300 (bytes : List Byte) (s : State) : State := { s with mem := Memory.load s.mem 0x300 bytes, index := 0x300 }

/-- One cycle of the word w placed at pc. -/
def run (w : Nat) (s : State) : Option State :=
  match step (s.withFetchWord 16 w) with
  | .next t => some t
  | .fault _ => none
  | .refused _ => none

/-- The cells among the first `n` that are lit. -/
def lit (n : Nat) (s : State) : List Nat := (List.range n).filter s.fb.getLsbD

/-- What a fault leaves on record. -/
def record (s : State) : RunState × Option FaultKind × Word × Word := (s.run, s.fault, s.faultPc, s.pc)

/-! ## Well-formedness: the ill-formed terms are refused -/

theorem test_sys_0E0_is_ill_formed : WellFormed (.sys 0x0E0) = false := by decide
theorem test_sys_0EE_is_ill_formed : WellFormed (.sys 0x0EE) = false := by decide
theorem test_sys_0EF_is_well_formed : WellFormed (.sys 0x0EF) = true := by decide

/-! ## Decoding: a word of each row, bit by bit as `cccc xxxx yyyy nnnn` (30_encoding.md R81, R84) -/

theorem test_decode_sys : decodeTableWord 16 0b0000000100100011 = some (.sys 0x123) := by decide
theorem test_decode_cls : decodeTableWord 16 0b0000000011100000 = some .cls := by decide
theorem test_decode_ret : decodeTableWord 16 0b0000000011101110 = some .ret := by decide
theorem test_decode_jp : decodeTableWord 16 0b0001101010111100 = some (.jp 0xABC) := by decide
theorem test_decode_call : decodeTableWord 16 0b0010010000000001 = some (.call 0x401) := by decide
theorem test_decode_seImm : decodeTableWord 16 0b0011001100010000 = some (.seImm 3 0x10) := by decide
theorem test_decode_seReg : decodeTableWord 16 0b0101000100100001 = some (.seReg 1 2) := by decide
theorem test_decode_sneImm : decodeTableWord 16 0b0100001110000001 = some (.sneImm 3 0x81) := by decide
theorem test_decode_sneReg : decodeTableWord 16 0b1001000100101111 = some (.sneReg 1 2) := by decide
theorem test_decode_ldImm : decodeTableWord 16 0b0110011100010010 = some (.ldImm 7 0x12) := by decide
theorem test_decode_addImm : decodeTableWord 16 0b0111001000000011 = some (.addImm 2 0x03) := by decide
theorem test_decode_ldReg : decodeTableWord 16 0b1000000000010000 = some (.ldReg 0 1) := by decide
theorem test_decode_orReg : decodeTableWord 16 0b1000110000110001 = some (.orReg 12 3) := by decide
theorem test_decode_andReg : decodeTableWord 16 0b1000110000110010 = some (.andReg 12 3) := by decide
theorem test_decode_xorReg : decodeTableWord 16 0b1000110000110011 = some (.xorReg 12 3) := by decide
theorem test_decode_addReg : decodeTableWord 16 0b1000110000110100 = some (.addReg 12 3) := by decide
theorem test_decode_subReg : decodeTableWord 16 0b1000110000110101 = some (.subReg 12 3) := by decide
theorem test_decode_subnReg : decodeTableWord 16 0b1000110000110111 = some (.subnReg 12 3) := by decide
theorem test_decode_shr : decodeTableWord 16 0b1000010010010110 = some (.shr 4) := by decide
theorem test_decode_shl : decodeTableWord 16 0b1000010010011110 = some (.shl 4) := by decide
theorem test_decode_ldI : decodeTableWord 16 0b1010001100000001 = some (.ldI 0x301) := by decide
theorem test_decode_jpV0 : decodeTableWord 16 0b1011111111111110 = some (.jpV0 0xFFE) := by decide
theorem test_decode_rnd : decodeTableWord 16 0b1100001100001111 = some (.rnd 3 0x0F) := by decide
theorem test_decode_drw : decodeTableWord 16 0b1101000100101111 = some (.drw 1 2 15) := by decide
theorem test_decode_skp : decodeTableWord 16 0b1110010110011110 = some (.skp 5) := by decide
theorem test_decode_sknp : decodeTableWord 16 0b1110010110100001 = some (.sknp 5) := by decide
theorem test_decode_ldVxDt : decodeTableWord 16 0b1111001000000111 = some (.ldVxDt 2) := by decide
theorem test_decode_ldVxK : decodeTableWord 16 0b1111001100001010 = some (.ldVxK 3) := by decide
theorem test_decode_ldDtVx : decodeTableWord 16 0b1111000100010101 = some (.ldDtVx 1) := by decide
theorem test_decode_ldStVx : decodeTableWord 16 0b1111000100011000 = some (.ldStVx 1) := by decide
theorem test_decode_addI : decodeTableWord 16 0b1111001000011110 = some (.addI 2) := by decide
theorem test_decode_ldF : decodeTableWord 16 0b1111110000101001 = some (.ldF 12) := by decide
theorem test_decode_ldB : decodeTableWord 16 0b1111000100110011 = some (.ldB 1) := by decide
theorem test_decode_ldMemVx : decodeTableWord 16 0b1111001001010101 = some (.ldMemVx 2) := by decide
theorem test_decode_ldVxMem : decodeTableWord 16 0b1111001001100101 = some (.ldVxMem 2) := by decide

/-- Y6 and Y7: the unmatched words of 95_test_vectors.md. -/
theorem test_decode_unmatched :
    [0x8018, 0x8AB9, 0xE000, 0xF0FF].map (decodeTableWord 16) = [none, none, none, none] := by decide

/-! ## The cycle (95_test_vectors.md 2.1) -/

/-- Y1, big-endian fetch and JP. -/
theorem test_jp : (run 0x1234 State.reset).map (·.pc) = some 0x234 := by decide
/-- Y2, an odd address. -/
theorem test_ldImm_odd : (run 0x6077 { State.reset with pc := 0x201 }).map (fun t => (t.getV 0, t.pc)) =
    some (0x77, 0x203) := by decide
/-- Y3, the pre-advance wraps. -/
theorem test_preAdvance_wraps : (run 0x6001 { State.reset with pc := 0xFFE }).map (fun t => (t.getV 0, t.pc)) =
    some (1, 0) := by decide
/-- Y4, FETCH_OUT_OF_RANGE, with no tick. -/
theorem test_fetch_fault : (run 0 { State.reset with pc := 0xFFF, dt := 3 }).map (fun t => (record t, t.dt)) =
    some ((.faulted, some .fetchOutOfRange, 0xFFF, 0xFFF), 3) := by decide
/-- Y5, SYS from zero-filled memory. -/
theorem test_sys : (run 0x0000 State.reset).map (fun t => (t.pc, t.v)) = some (0x202, State.reset.v) := by decide
/-- Y6, an unmatched opcode. -/
theorem test_unmatched : (run 0x8018 (regs [(0, 9)])).map (fun t => (t.pc, t.v)) =
    some (0x202, (regs [(0, 9)]).v) := by decide
/-- K19, the tick and the strobe. -/
theorem test_tick : (run 0x6000 { State.reset with st := 1, dt := 3 }).map (fun t => (t.st, t.dt, t.audioOut)) =
    some (0, 2, true) := by decide
/-- R118, the poll delivers the host's flags. -/
theorem test_poll : (run 0 { State.reset with keyInput := [Vector.replicate 16 true] }).map
    (fun t => (t.key, t.keyInput)) = some (Vector.replicate 16 true, []) := by decide
/-- P7, a faulted machine has no further step. -/
theorem test_faulted_stops : step { State.reset with run := .faulted, fault := some .stackOverflow } =
    .fault (.halted (some .stackOverflow)) := by rfl

/-! ## Control flow (95_test_vectors.md 2.2) -/

/-- C3. -/
theorem test_call : (run 0x2400 State.reset).map (fun t => (t.stack[0], t.sp, t.pc)) =
    some (0x202, 1, 0x400) := by decide
/-- C5. -/
theorem test_call_overflow : (run 0x2500 { State.reset with pc := 0x300, sp := 16 }).map
    (fun t => (record t, t.sp)) = some ((.faulted, some .stackOverflow, 0x300, 0x300), 16) := by decide
/-- C7. -/
theorem test_ret : (run 0x00EE { State.reset with sp := 2, stack := State.reset.stack.set 1 0x40A }).map
    (fun t => (t.sp, t.pc, t.stack[1])) = some (1, 0x40A, 0x40A) := by decide
/-- C6. -/
theorem test_ret_underflow : (run 0x00EE { State.reset with pc := 0x300 }).map record =
    some (.faulted, some .stackUnderflow, 0x300, 0x300) := by decide
/-- C22, the skip after a wrapped pre-advance. -/
theorem test_seImm : (run 0x3310 { regs [(3, 0x10)] with pc := 0xFFE }).map (·.pc) = some 0x002 := by decide
/-- C9. -/
theorem test_seImm_not : (run 0x3310 (regs [(3, 0x11)])).map (·.pc) = some 0x202 := by decide
/-- Y8, the low nibble is not checked. -/
theorem test_seReg : (run 0x5121 (regs [(1, 4), (2, 4)])).map (·.pc) = some 0x204 := by decide
/-- C13. -/
theorem test_seReg_not : (run 0x5120 (regs [(1, 9), (2, 8)])).map (·.pc) = some 0x202 := by decide
/-- C11. -/
theorem test_sneImm : (run 0x4310 State.reset).map (·.pc) = some 0x204 := by decide
/-- C10. -/
theorem test_sneImm_not : (run 0x4310 (regs [(3, 0x10)])).map (·.pc) = some 0x202 := by decide
/-- C15. -/
theorem test_sneReg : (run 0x9120 (regs [(1, 9), (2, 8)])).map (·.pc) = some 0x204 := by decide
/-- Y9. -/
theorem test_sneReg_not : (run 0x912F (regs [(1, 4), (2, 4)])).map (·.pc) = some 0x202 := by decide
/-- C18, the X field is no operand. -/
theorem test_jpV0 : (run 0xB500 (regs [(5, 0x40), (0, 1)])).map (·.pc) = some 0x501 := by decide
/-- C19, beyond memory. -/
theorem test_jpV0_beyond : (run 0xBFFF (regs [(0, 0xFF)])).map (·.pc) = some 0x10FE := by decide

/-! ## Registers and ALU (95_test_vectors.md 2.3) -/

/-- A1. -/
theorem test_ldImm : (run 0x6712 (regs [(7, 0xAB)])).map (·.getV 7) = some 0x12 := by decide
/-- A2, no flag. -/
theorem test_addImm : (run 0x7203 (regs [(2, 0xFE), (15, 0x55)])).map (fun t => (t.getV 2, t.getV 15)) =
    some (0x01, 0x55) := by decide
/-- A4, VF as destination. -/
theorem test_addImm_vf : (run 0x7F05 (regs [(15, 0x10)])).map (·.getV 15) = some 0x15 := by decide
/-- A5. -/
theorem test_ldReg : (run 0x8010 (regs [(1, 0x42)])).map (·.getV 0) = some 0x42 := by decide
/-- A6, VF is kept. -/
theorem test_orReg : (run 0x8011 (regs [(0, 0xF0), (1, 0x0F), (15, 7)])).map
    (fun t => (t.getV 0, t.getV 15)) = some (0xFF, 7) := by decide
/-- A7, VF is kept. -/
theorem test_andReg : (run 0x8012 (regs [(0, 0xF0), (1, 0x3C), (15, 7)])).map
    (fun t => (t.getV 0, t.getV 15)) = some (0x30, 7) := by decide
/-- A8, VF is kept. -/
theorem test_xorReg : (run 0x8013 (regs [(0, 0xFF), (1, 0x0F), (15, 7)])).map
    (fun t => (t.getV 0, t.getV 15)) = some (0xF0, 7) := by decide
/-- A9. -/
theorem test_xorReg_same : (run 0x8443 (regs [(4, 0x5A)])).map (·.getV 4) = some 0 := by decide
/-- A14, source and destination are one register. -/
theorem test_addReg : (run 0x8224 (regs [(2, 0x80)])).map (fun t => (t.getV 2, t.getV 15)) =
    some (0, 1) := by decide
/-- A33, VF as the source. -/
theorem test_addReg_vf_source : (run 0x81F4 (regs [(15, 0x07), (1, 0x01)])).map
    (fun t => (t.getV 1, t.getV 15)) = some (0x08, 0) := by decide
/-- A16, equal operands give no flag. -/
theorem test_subReg : (run 0x8015 (regs [(0, 3), (1, 3), (15, 9)])).map (fun t => (t.getV 0, t.getV 15)) =
    some (0, 0) := by decide
/-- A18. -/
theorem test_subReg_borrow : (run 0x8015 (regs [(0, 0x03), (1, 0x0A)])).map
    (fun t => (t.getV 0, t.getV 15)) = some (0xF9, 0) := by decide
/-- A19. -/
theorem test_subnReg : (run 0x8017 (regs [(0, 0x03), (1, 0x0A)])).map (fun t => (t.getV 0, t.getV 15)) =
    some (0x07, 1) := by decide
/-- A20, equal operands give no flag. -/
theorem test_subnReg_equal : (run 0x8017 (regs [(0, 5), (1, 5)])).map (fun t => (t.getV 0, t.getV 15)) =
    some (0, 0) := by decide
/-- A22, Y is ignored. -/
theorem test_shr : (run 0x8496 (regs [(4, 0x05), (9, 0xFF)])).map (fun t => (t.getV 4, t.getV 15)) =
    some (0x02, 1) := by decide
/-- A24. -/
theorem test_shr_even : (run 0x8406 (regs [(4, 0xFE)])).map (fun t => (t.getV 4, t.getV 15)) =
    some (0x7F, 0) := by decide
/-- A29, Y is ignored. -/
theorem test_shl : (run 0x849E (regs [(4, 0x01), (9, 0x80)])).map (fun t => (t.getV 4, t.getV 15)) =
    some (0x02, 0) := by decide
/-- A26. -/
theorem test_shl_carry : (run 0x840E (regs [(4, 0x81)])).map (fun t => (t.getV 4, t.getV 15)) =
    some (0x02, 1) := by decide
/-- A30. -/
theorem test_rnd : (run 0xC30F { State.reset with drawInput := [0xA5] }).map
    (fun t => (t.getV 3, t.drawInput)) = some (0x05, []) := by decide
/-- A32, the largest draw. -/
theorem test_rnd_largest : (run 0xC3FF { State.reset with drawInput := [0xFE] }).map (·.getV 3) =
    some 0xFE := by decide

/-- VF as the destination under the three settings of VF_DEST_ORDER, for a result, a flag and what
AS_LISTED leaves. -/
def vfUnder (result flag listed : Byte) : List Byte :=
  [VfDestOrder.flagLast, .resultLast, .asListed].map fun o =>
    (State.reset.setResultFlag o vf result flag listed).getV vf

/-- A34, ADD with VF = 0x80 and V[1] = 0x90. -/
theorem test_vf_dest_add : vfUnder (0x80 + 0x90) (carryFlag 0x80 0x90) (carryFlag 0x80 0x90) =
    [1, 0x10, 1] := by decide
/-- A35, SUB with VF = 0x05 and V[1] = 0x03. -/
theorem test_vf_dest_sub : vfUnder (0x05 - 0x03) (notBorrowFlag 0x05 0x03) (notBorrowFlag 0x05 0x03) =
    [1, 0x02, 1] := by decide
/-- A36, SUBN with VF = 0x03 and V[1] = 0x05. -/
theorem test_vf_dest_subn : vfUnder (0x05 - 0x03) (notBorrowFlag 0x05 0x03) (notBorrowFlag 0x05 0x03) =
    [1, 0x02, 1] := by decide
/-- A37, SHR with VF = 0x03. -/
theorem test_vf_dest_shr : vfUnder (0x03 >>> 1) (shiftedOutLow 0x03) (shiftedOutLow 0x03 >>> 1) =
    [1, 0x01, 0] := by decide
/-- A38, SHL with VF = 0x81. -/
theorem test_vf_dest_shl : vfUnder (0x81 <<< 1) (shiftedOutHigh 0x81) (shiftedOutHigh 0x81 <<< 1) =
    [1, 0x02, 2] := by decide

/-! ## Display (95_test_vectors.md 2.4) -/

/-- D1, the combined linear index. -/
theorem test_drw : (run 0xD011 (at300 [0xFF] (regs [(0, 60)]))).map (fun t => (lit 80 t, t.getV 15)) =
    some ([60, 61, 62, 63, 64, 65, 66, 67], 0) := by decide +kernel
/-- D7, a collision, and the render of R116. -/
theorem test_drw_collision : (run 0xD011 (at300 [0xC0] { regs [(0, 4)] with fb := BitVec.twoPow 2048 5 })).map
    (fun t => (lit 16 t, t.getV 15, t.redraw, t.renderOut.isSome)) = some ([4], 1, false, true) := by decide +kernel
/-- D12. -/
theorem test_cls : (run 0x00E0 { State.reset with fb := BitVec.allOnes 2048 }).map
    (fun t => (t.fb, t.renderOut)) = some (0, some 0) := by decide +kernel

/-! ## Keys and timers (95_test_vectors.md 2.5) -/

/-- K1. -/
theorem test_skp : (run 0xE59E (down 10 (regs [(5, 0x0A)]))).map (·.pc) = some 0x204 := by decide
/-- K5. -/
theorem test_skp_fault : (run 0xE59E (regs [(5, 0x10)])).map record =
    some (.faulted, some .keyIndex, 0x200, 0x200) := by decide
/-- K3. -/
theorem test_sknp : (run 0xE5A1 (regs [(5, 0x0A)])).map (·.pc) = some 0x204 := by decide
/-- K4. -/
theorem test_sknp_not : (run 0xE5A1 (down 10 (regs [(5, 0x0A)]))).map (·.pc) = some 0x202 := by decide
/-- K12, DT is read before the tick. -/
theorem test_ldVxDt : (run 0xF207 { State.reset with dt := 0x20 }).map (fun t => (t.getV 2, t.dt)) =
    some (0x20, 0x1F) := by decide
/-- K7, 1 is written, not the key's index. -/
theorem test_ldVxK : (run 0xF30A (down 7 (regs [(3, 0x55)]))).map (fun t => (t.getV 3, t.pc)) =
    some (1, 0x202) := by decide
/-- K10 and K11, the rewind wraps and the timers tick. -/
theorem test_ldVxK_waits : (run 0xF30A { regs [(3, 0x55)] with pc := 0xFFE, dt := 3 }).map
    (fun t => (t.getV 3, t.pc, t.dt)) = some (0x55, 0xFFE, 2) := by decide
/-- K14, ticked in the cycle that writes it. -/
theorem test_ldDtVx : (run 0xF015 (regs [(0, 5)])).map (·.dt) = some 4 := by decide
/-- K16, the strobe of a written 1. -/
theorem test_ldStVx : (run 0xF118 (regs [(1, 1)])).map (fun t => (t.st, t.audioOut)) = some (0, true) := by decide
/-- K17, no strobe for a written 0. -/
theorem test_ldStVx_zero : (run 0xF118 { State.reset with st := 5 }).map (fun t => (t.st, t.audioOut)) =
    some (0, false) := by decide

/-! ## The glyph table (92_eei_decisions.md D18) -/

/-- The bytes of digit 0, which M23 loads. -/
theorem test_glyph_0 : glyphData.take 5 = [0xF0, 0x90, 0x90, 0x90, 0xF0] := by decide
/-- The bytes of digit F, the last of the 80. -/
theorem test_glyph_F : glyphData.drop 75 = [0xF0, 0x80, 0xF0, 0x80, 0x80] := by decide

/-! ## Index register and memory (95_test_vectors.md 2.6) -/

/-- M1. -/
theorem test_ldI : (run 0xA300 State.reset).map (·.index) = some 0x300 := by decide
/-- M4, modulo 4096. -/
theorem test_addI : (run 0xF21E { regs [(2, 0xFF)] with index := 0xFF0 }).map (fun t => (t.index, t.getV 15)) =
    some (0x0EF, 0) := by decide
/-- M6, whatever GLYPH_BASE is. -/
theorem test_ldF : (run 0xF029 (regs [(0, 0x0A)])).map (·.index) =
    some (BitVec.ofNat 16 (Config.glyphBase.val + 50)) := by rfl
/-- M8. -/
theorem test_ldF_fault : (run 0xF029 (regs [(0, 0x10)])).map (fun t => (record t, t.index)) =
    some ((.faulted, some .glyphIndex, 0x200, 0x200), 0) := by decide
/-- M9. -/
theorem test_ldB : (run 0xF133 { regs [(1, 156)] with index := 0x300 }).map
    (fun t => ([0x300, 0x301, 0x302].map t.memRead, t.index)) = some ([1, 5, 6], 0x300) := by decide
/-- M14, the third address wraps below 0x200 and no byte is written. -/
theorem test_ldB_fault : (run 0xF133 { regs [(1, 156)] with index := 0xFFE }).map
    (fun t => (record t, [0xFFE, 0xFFF].map t.memRead)) =
    some ((.faulted, some .reservedWrite, 0x200, 0x200), [0, 0]) := by decide
/-- The example of R244. -/
theorem test_ldMemVx : (run 0xF255 { regs [(0, 1), (1, 2), (2, 3), (3, 4)] with index := 0x300 }).map
    (fun t => ([0x300, 0x301, 0x302, 0x303].map t.memRead, t.index)) = some ([1, 2, 3, 0], 0x300) := by decide
/-- P8. -/
theorem test_ldMemVx_fault : (run 0xF055 { regs [(0, 0xAA)] with index := 0x1FF }).map record =
    some (.faulted, some .reservedWrite, 0x200, 0x200) := by decide
/-- The example of R245. -/
theorem test_ldVxMem : (run 0xF265 (at300 [1, 2, 3, 4] State.reset)).map
    (fun t => ([0, 1, 2, 3].map t.getV, t.index)) = some ([1, 2, 3, 0], 0x300) := by decide

/-! ## Witnesses: states and operands that meet the hypotheses of the statements, clause by clause -/

/-- The word w placed where the state fetches. -/
def fetching (w : Nat) (s : State) : State := s.withFetchWord 16 w

/-- A state no field of which is as after reset, except what the invariant and RUNNING fix. -/
def busy : State :=
  { at300 [1, 2, 3] (down 15 (regs [(0, 0x3C), (1, 31), (2, 0xFF), (5, 0x10), (15, 1)])) with
    pc := 0xFFE, sp := 16, stack := Vector.replicate 16 0xFFF, dt := 1, st := 1, fb := 1, redraw := true }

/-- Each row's own pattern matches the row, so no clause about the words of a row is empty. -/
theorem witness_EncodedAs : dispatchTable.all (fun r => r.pattern &&& r.mask == r.pattern) = true := by decide

theorem witness_DecodeOfEncodeIsTheInstruction :
    WellFormed (.drw 15 0 15) = true ∧ WellFormed (.sys 0x0E1) = true ∧ WellFormed (.sys 0xFFF) = true := by
  decide

theorem witness_EncodeOfDecodeZeroesIgnoredFields :
    decode 0x512F#16 = .ok (.seReg 1 2) ∧ encode (.seReg 1 2) = 0x512F#16 &&& keptBits (.seReg 1 2) := by decide

theorem witness_MatchingEntriesAreTheDecodedInstruction :
    matchesOf 0x00E1#16 = [.sys 0x0E1#12] ∧ decode 0x00E1#16 = .ok (.sys 0x0E1#12) ∧
    matchesOf 0x800F#16 = [] ∧ decode 0x800F#16 = .error .class8 := by decide

theorem witness_ScanOfTheTableRunsTheDecodedInstruction :
    busy.run = .running ∧ decode 0x00EE#16 = .ok .ret ∧ decode 0xFFFF#16 = .error .classF := by decide

theorem witness_UnmatchedOpcodesAreExactlyTheListed :
    [0x8008#16, 0x800D#16, 0x800F#16, 0xE09F#16, 0xF066#16].map matchesOf = [[], [], [], [], []] ∧
    (fetching 0x8018 busy).run = .running ∧ (fetching 0x8018 busy).pc.toNat ≤ 0xFFE ∧
    matchesOf (fetching 0x8018 busy).fetchOp = [] := by decide

theorem witness_StepRunsTheDecodedInstruction :
    (fetching 0x6005 busy).run = .running ∧ (fetching 0x6005 busy).pc.toNat ≤ 0xFFE ∧
    decode (fetching 0x6005 busy).fetchOp = .ok (.ldImm 0 5) := by decide

theorem witness_StepRunsTheDecodedInstruction_faulting :
    decode (fetching 0x2500 busy).fetchOp = .ok (.call 0x500) ∧
    ∃ t, exec (.call 0x500) (fetching 0x2500 busy).beginCycle = .next t ∧ t.run = .faulted :=
  ⟨by decide, _, rfl, rfl⟩

theorem witness_FetchReadsBigEndianOrFaults :
    busy.run = .running ∧ busy.pc.toNat = 0xFFE ∧ (busy.jump 0xFFF#16).run = .running ∧
    0xFFE < (busy.jump 0xFFF#16).pc.toNat := by decide

theorem witness_CycleEndsWithRenderTickPoll :
    busy.run ≠ .faulted ∧ busy.redraw = true ∧ busy.dt ≠ 0 ∧ busy.st ≠ 0 ∧
    State.reset.redraw = false ∧ State.reset.dt = 0 ∧ State.reset.st = 0 ∧
    { busy with keyInput := [busy.key] }.keyInput = busy.key :: [] := by decide

theorem witness_FaultsArePreciseAndHalting :
    ∃ t, (fetching 0x2500 busy).run = .running ∧ step (fetching 0x2500 busy) = .next t ∧ t.run = .faulted :=
  ⟨_, rfl, rfl, rfl⟩

theorem witness_FaultsHappenExactlyAsTabled :
    [faultOf (busy.jump 0xFFF#16), faultOf (fetching 0x2500 busy),
      faultOf (fetching 0x00EE { busy with sp := 0 }), faultOf (fetching 0xF529 busy),
      faultOf (fetching 0xE59E busy), faultOf (fetching 0xE5A1 busy),
      faultOf (fetching 0xF133 { busy with index := 0x1FF }),
      faultOf (fetching 0xF055 { busy with index := 0x1FF })] =
    [some .fetchOutOfRange, some .stackOverflow, some .stackUnderflow, some .glyphIndex, some .keyIndex,
      some .keyIndex, some .reservedWrite, some .reservedWrite] := by decide

theorem witness_FaultsHappenExactlyAsTabled_none :
    [faultOf (fetching 0x2500 { busy with sp := 15 }), faultOf (fetching 0x00EE { busy with sp := 1 }),
      faultOf (fetching 0xF229 (busy.setV 2 15)), faultOf (fetching 0xE29E (busy.setV 2 15)),
      faultOf (fetching 0xF133 { busy with index := 0xFFD }),
      faultOf (fetching 0xFF55 { busy with index := 0x200 })] = [none, none, none, none, none, none] := by decide

theorem witness_EveryStepKeepsTheInvariant : busy.Inv ∧ ∃ t, step busy = .next t :=
  ⟨by unfold State.Inv; decide, _, rfl⟩

theorem witness_PcStaysInItsRange :
    State.reset.pc.toNat < 4096 ∧ (∀ k : Fin 16, busy.stack[k].toNat < 4096) ∧
    (∃ t, exec .ret busy = .next t) ∧ (∃ t, exec (.jpV0 0xFFF) busy = .next t) :=
  ⟨by decide, by decide, ⟨_, rfl⟩, ⟨_, rfl⟩⟩

theorem witness_IndexWritesStayBelow4096 :
    ∃ t, exec (.ldI 0xFFF) busy = .next t ∧ t.index ≠ busy.index := ⟨_, rfl, by decide⟩

theorem witness_ReservedRangeIsNeverWritten :
    ∃ t, (fetching 0xF255 busy).run = .running ∧ step (fetching 0xF255 busy) = .next t := ⟨_, rfl, rfl⟩

theorem witness_EachStateHasItsOwnWriters :
    (∃ t, exec (.drw 0 1 1) busy = .next t) ∧ (∃ t, exec .cls busy = .next t) ∧ destRegs .cls = [] ∧
    movesPc .cls = false ∧ canFault .cls = false := ⟨⟨_, rfl⟩, ⟨_, rfl⟩, rfl, rfl, rfl⟩

theorem witness_RegistersChangeOnlyAsDestinations :
    ∃ t, exec (.addReg 0 1) busy = .next t ∧ (1 : RegIx) ∉ destRegs (.addReg 0 1) := ⟨_, rfl, by decide⟩

theorem witness_SysIsANoOp :
    0x0FFF#16 &&& 0xF000#16 = 0x0000#16 ∧ (0x0FFF : Word) ≠ 0x00E0#16 ∧ (0x0FFF : Word) ≠ 0x00EE#16 ∧
    busy.run = .running ∧ busy.pc.toNat ≤ 0xFFE ∧ decode busy.fetchOp = .ok (.sys 0) := by decide

theorem witness_RetPopsOrUnderflows :
    busy.sp.val = (15 : Fin 16).val + 1 ∧ { busy with sp := 1 }.sp.val = (0 : Fin 16).val + 1 ∧
    State.reset.sp.val = 0 := by decide

/-- A JP to its own address at the highest one a fetch may start at, and a JP beyond it. -/
theorem witness_JumpSetsPcToItsTarget :
    busy.run = .running ∧ busy.pc.toNat ≤ 0xFFE ∧ decode (fetching 0x1FFE busy).fetchOp = .ok (.jp 0xFFE) ∧
    (0xFFE#12).toNat = (fetching 0x1FFE busy).pc.toNat ∧
    decode (fetching 0x1FFF busy).fetchOp = .ok (.jp 0xFFF) ∧ 0xFFE < (0xFFF#12).toNat := by decide

theorem witness_CallPushesOrOverflows :
    State.reset.sp.val = (0 : Fin 16).val ∧ { busy with sp := 15 }.sp.val = (15 : Fin 16).val ∧
    busy.sp.val = 16 := by decide

theorem witness_RetAfterCallRestoresPc :
    ∃ t u : State, { busy with sp := 15 }.sp.val < 16 ∧ exec (.call 0x500) { busy with sp := 15 } = .next t ∧
      u.stack = t.stack ∧ u.sp = t.sp := ⟨_, _, by decide, rfl, rfl, rfl⟩

theorem witness_IndexedJumpAddsV0 :
    ∃ t, exec (.jpV0 0xFFF) busy = .next t ∧ t.run = .running ∧
      0xFFE < (busy.getV 0).toNat + (0xFFF#12).toNat := ⟨_, rfl, rfl, by decide⟩

/-- One of the three settings holds, so the clauses for X = 15 are never all empty. -/
theorem witness_AddAndSubtractWriteResultAndFlag_order :
    Config.vfDestOrder = .flagLast ∨ Config.vfDestOrder = .resultLast ∨ Config.vfDestOrder = .asListed := by
  cases Config.vfDestOrder <;> simp

theorem witness_AddAndSubtractWriteResultAndFlag :
    255 = (busy.getV 2).toNat ∧ 1 = (busy.getV 15).toNat ∧ (2 : RegIx) ≠ vf ∧ (15 : RegIx) = vf := by decide

theorem witness_ShiftsWriteResultAndShiftedBit : 255 = (busy.getV 2).toNat ∧ 1 = (busy.getV 15).toNat := by decide

theorem witness_RandomWritesABoundedDraw : { busy with drawInput := [0, 254] }.drawInput = 0 :: [254] := by decide

/-- Cell 0 is covered by a sprite drawn at the last cell, and cell 1 is not. -/
theorem witness_DrawTogglesTheSpriteCells :
    SpriteCovers (at300 [0xC0] State.reset) 63 31 1 0 ∧ ¬ SpriteCovers (at300 [0xC0] State.reset) 63 31 1 1 ∧
    63 = ((regs [(0, 63), (1, 31)]).getV 0).toNat ∧ 31 = ((regs [(0, 63), (1, 31)]).getV 1).toNat := by
  unfold SpriteCovers
  decide +kernel

/-- A state in which the sprite of one row at I meets a lit cell. -/
theorem witness_DrawTogglesTheSpriteCells_collision :
    ∃ c, SpriteCovers { at300 [0xC0] State.reset with fb := 1 } 63 31 1 c ∧
      { at300 [0xC0] State.reset with fb := 1 }.fb.getLsbD c = true :=
  ⟨0, by unfold SpriteCovers; decide +kernel, by decide +kernel⟩

/-- A blank framebuffer and a sprite byte at I. -/
def spriteReady : State := at300 [0xFF] State.reset

theorem witness_DrawingTwiceRestoresTheFramebuffer :
    0 = (spriteReady.getV 0).toNat ∧ 0 = (spriteReady.getV 1).toNat ∧ spriteReady.fb = 0 ∧
    ∃ t w, exec (.drw 0 1 1) spriteReady = .next t ∧ exec (.drw 0 1 1) { spriteReady with fb := t.fb } = .next w :=
  ⟨by decide, by decide, by decide +kernel, _, _, rfl, rfl⟩

/-- The state of the second draw agrees with the first on everything else the draw reads. -/
theorem witness_DrawingTwiceRestoresTheFramebuffer_agrees (f : Frame) :
    { spriteReady with fb := f }.index = spriteReady.index ∧
    { spriteReady with fb := f }.getV 0 = spriteReady.getV 0 ∧
    { spriteReady with fb := f }.getV 1 = spriteReady.getV 1 ∧
    (∀ r < (1#4).toNat, { spriteReady with fb := f }.memRead (spriteReady.ea r) =
      spriteReady.memRead (spriteReady.ea r)) := ⟨rfl, rfl, rfl, fun _ _ => rfl⟩

theorem witness_DrawingTwiceRestoresTheFramebuffer_bit : ∃ c, SpriteCovers spriteReady 0 0 1 c :=
  ⟨7, by unfold SpriteCovers; decide +kernel⟩

theorem witness_OnlyDrawReadsTheFramebuffer : ∀ x y n, Instr.ldVxMem 15 ≠ .drw x y n := by
  intro x y n h
  cases h

theorem witness_KeySkipsTestTheNamedKey :
    ((busy.setV 3 15).getV 3).toNat = (15 : Fin 16).val ∧ (State.reset.getV 3).toNat = (0 : Fin 16).val ∧
    15 < (busy.getV 5).toNat := by decide

theorem witness_WaitForKeyWritesOneOrRewinds :
    (∃ k : Fin 16, busy.key[k] = true) ∧ (∀ k : Fin 16, State.reset.key[k] = false) := by decide

theorem witness_WaitForKeyRepeatsWhileTimersTick :
    (fetching 0xFF0A State.reset).run = .running ∧ (fetching 0xFF0A State.reset).pc.toNat ≤ 0xFFE ∧
    decode (fetching 0xFF0A State.reset).fetchOp = .ok (.ldVxK 15) ∧
    (∀ k : Fin 16, (fetching 0xFF0A State.reset).key[k] = false) := by decide

theorem witness_TimerTransfersAreTickedInTheirCycle :
    busy.run = .running ∧ busy.pc.toNat ≤ 0xFFE ∧
    decode (fetching 0xFF07 busy).fetchOp = .ok (.ldVxDt 15) ∧
    decode (fetching 0xF215 busy).fetchOp = .ok (.ldDtVx 2) ∧
    decode (fetching 0xFF18 busy).fetchOp = .ok (.ldStVx 15) ∧ busy.getV 15 = 1 ∧ busy.getV 2 ≠ 1 := by decide

theorem witness_GlyphAddressOrFault :
    ((busy.setV 3 15).getV 3).toNat ≤ 15 ∧ 15 < (busy.getV 5).toNat := by decide

theorem witness_BcdDigitsAreStored :
    Memory.wf busy.mem = true ∧ 255 = (busy.getV 2).toNat ∧
    (∀ k < 3, 0x200 ≤ { busy with index := 0xFFD }.ea k) ∧ (∀ k < 3, 0x200 ≤ { busy with index := 0x200 }.ea k) ∧
    (∃ k < 3, { busy with index := 0xFFE }.ea k < 0x200) ∧ (∃ k < 3, { busy with index := 0x1FF }.ea k < 0x200) := by
  decide

theorem witness_RegistersAreStored :
    Memory.wf busy.mem = true ∧ (∀ k < (15 : RegIx).val + 1, 0x200 ≤ { busy with index := 0xFF0 }.ea k) ∧
    (∃ k < (15 : RegIx).val + 1, { busy with index := 0xFF1 }.ea k < 0x200) ∧
    (∃ k < (0 : RegIx).val + 1, { busy with index := 0x1FF }.ea k < 0x200) := by decide

theorem witness_RegistersAreLoaded : (2 : RegIx) ≤ 2 ∧ (2 : RegIx) < 3 := by decide

theorem witness_StoreThenLoadRestoresRegisters :
    ∃ t u : State, Memory.wf busy.mem = true ∧ exec (.ldMemVx 15) busy = .next t ∧ t.run ≠ .faulted ∧
      u.mem = t.mem ∧ u.index = busy.index :=
  ⟨_, { State.reset with mem := _, index := _ }, by decide, rfl, by decide, rfl, rfl⟩

theorem witness_StoredCodeIsFetched :
    ∃ t, Memory.wf (busy.jump 0x301#16).mem = true ∧ exec (.ldMemVx 2) (busy.jump 0x301#16) = .next t ∧
      t.run ≠ .faulted ∧ (1 : RegIx) < 2 ∧ (busy.jump 0x301#16).pc.toNat = (busy.jump 0x301#16).ea (1 : RegIx).val ∧
      (busy.jump 0x301#16).pc.toNat + 1 = (busy.jump 0x301#16).ea ((1 : RegIx).val + 1) :=
  ⟨_, by decide, rfl, by decide, by decide, by decide, by decide⟩

theorem witness_DeadStackEntriesAreNeverSeen :
    { busy with sp := 2 }.run = .running ∧
    (∀ k : Fin 16, k.val < { busy with sp := 2 }.sp.val →
      ((busy.stack.set 2 0).set 15 0)[k] = { busy with sp := 2 }.stack[k]) ∧
    ((busy.stack.set 2 0).set 15 0) ≠ busy.stack := by decide

theorem witness_ResetStateIsAsListed :
    15 < 16 ∧ 4 < 5 ∧ (0x1FF < Config.glyphBase.val ∨ Config.glyphBase.val + 80 ≤ 0x200) :=
  ⟨by decide, by decide, Or.inr (by have := Config.glyphBase.isLt; omega)⟩

theorem witness_BootCopiesTheProgramOrFails (b : Byte) :
    (busy.restart (.image (List.replicate 3584 b))).run = .boot ∧
    (busy.restart (.image (List.replicate 3584 b))).loader = .image (List.replicate 3584 b) ∧
    (List.replicate 3584 b).length ≤ 3584 ∧ 3584 < (List.replicate 3585 b).length ∧
    (busy.restart .unreadable).run = .boot ∧ (busy.restart .unreadable).loader = .unreadable :=
  ⟨rfl, rfl, List.length_replicate.le, by rw [List.length_replicate]; decide, rfl, rfl⟩

theorem witness_PlacedWordIsFetched : Memory.wf busy.mem = true ∧ busy.pc.toNat ≤ 0xFFE ∧ 0xFFFF < 65536 := by decide

end Sys2Proof.Tests
end

section
/-! PROOFS. What one instruction can do, said once: `Effect` lists the shapes a next state of `exec` can
have, and `exec_effect` says that every instruction answers a next state of its shapes. The frame of `exec`,
the ranges of pc and I and the invariant are each a case split over `Effect`. -/

namespace Sys2Proof.Machine

/-- The instruction i, executed in s, can answer this state: one constructor per shape of effect in files
41 to 45 of the spec, with what bounds the value written. -/
inductive Effect (s : State) : Instr → State → Prop
  /-- SYS, and a skip whose condition fails. -/
  | nothing {i : Instr} : Effect s i s
  /-- A fault raised before any write (40_cycle.md R121). -/
  | fault {i : Instr} (k : FaultKind) (hi : canFault i = true) : Effect s i (s.enterFaulted k s.opAddr)
  /-- Registers written, none but the destinations (10_state.md R21, R22). -/
  | registers {i : Instr} (v : Vector Byte 16) (hv : ∀ j : RegIx, j ∉ destRegs i → v[j] = s.v[j]) :
      Effect s i { s with v := v }
  /-- pc written: below 4096, or by Bnnn (10_state.md R24). -/
  | jump {i : Instr} (a : Word) (hi : movesPc i = true)
      (ha : a.toNat < 4096 ∨ ∃ nnn, i = .jpV0 nnn ∧ a.toNat = (s.getV 0).toNat + nnn.toNat) :
      Effect s i (s.jump a)
  /-- CALL below the full stack (41_control.md R133). -/
  | push (nnn : BitVec 12) (h : s.sp.val < 16) :
      Effect s (.call nnn)
        { s with stack := s.stack.set s.sp.val s.pc h, sp := ⟨s.sp.val + 1, by omega⟩, pc := addrOf nnn }
  /-- RET from a stack in use (41_control.md R131). -/
  | pop (h : s.sp.val ≠ 0) :
      Effect s .ret { s with sp := ⟨s.sp.val - 1, by omega⟩, pc := s.stack[s.sp.val - 1]'(by omega) }
  /-- CLS (43_display.md R200). -/
  | clear : Effect s .cls { s with fb := 0, redraw := true }
  /-- DRW (43_display.md R201). -/
  | draw (x y : RegIx) (n : BitVec 4) (flag : Byte) (fb : Frame) :
      Effect s (.drw x y n) { s.setV vf flag with fb := fb, redraw := true }
  /-- I written, below 4096 (10_state.md R25). -/
  | index {i : Instr} (a : Word)
      (hi : (∃ nnn, i = .ldI nnn) ∨ (∃ x, i = .addI x) ∨ (∃ x, i = .ldF x)) (ha : a.toNat < 4096) :
      Effect s i { s with index := a }
  /-- A store outside the reserved range (20_memory.md R60). -/
  | store {i : Instr} (bytes : List Byte) (hi : (∃ x, i = .ldB x) ∨ (∃ x, i = .ldMemVx x))
      (ha : s.touchesReserved bytes.length = false) : Effect s i (s.writeBytes 0 bytes)
  /-- A draw consumed (42_alu.md R171). -/
  | random (x : RegIx) (kk b : Byte) : Effect s (.rnd x kk) (s.dropDraw.setV x b)
  /-- DT written (44_timers_keys.md R225). -/
  | delayTimer (x : RegIx) (b : Byte) : Effect s (.ldDtVx x) { s with dt := b }
  /-- ST written (44_timers_keys.md R226). -/
  | soundTimer (x : RegIx) (b : Byte) : Effect s (.ldStVx x) { s with st := b }

/-! ## The effects of the shared operations -/

section
variable {s : State} {i : Instr}

/-- A state that differs from s in its destination registers alone. -/
theorem Effect.of_registers {t : State} (ht : t = { s with v := t.v })
    (hv : ∀ j, j ∉ destRegs i → t.getV j = s.getV j) : Effect s i t :=
  ht ▸ .registers t.v hv

/-- The write of a result into the destination. -/
theorem Effect.of_setV {x : RegIx} (b : Byte) (hi : destRegs i = [x]) : Effect s i (s.setV x b) :=
  .of_registers rfl fun j hj => by
    have hjx : j ≠ x := by simpa [hi] using hj
    simp [State.getV_setV, hjx]

/-- The write of a result and a flag changes the registers alone. -/
theorem State.setResultFlag_frame (o : VfDestOrder) (s : State) (x : RegIx) (r f l : Byte) :
    s.setResultFlag o x r f l = { s with v := (s.setResultFlag o x r f l).v } := by
  unfold State.setResultFlag
  split <;> rfl

/-- The write of a result and its flag. -/
theorem Effect.of_setResultFlag {x : RegIx} (o : VfDestOrder) (r f l : Byte) (hi : destRegs i = [x, vf]) :
    Effect s i (s.setResultFlag o x r f l) :=
  .of_registers (s.setResultFlag_frame o x r f l) fun j hj => by
    have hj : j ≠ x ∧ j ≠ vf := by simpa [hi] using hj
    simp [State.getV_setResultFlag, hj.1, hj.2]

/-- A load into a list of registers changes the registers alone. -/
theorem State.loadRegs_frame (s : State) (xs : List RegIx) :
    s.loadRegs xs = { s with v := (s.loadRegs xs).v } := by
  induction xs generalizing s with
  | nil => rfl
  | cons x rest ih => exact ih (s.setV x (s.memRead (s.ea x.val)))

/-- The load of the destinations from memory. -/
theorem Effect.of_loadRegs {xs : List RegIx} (hi : destRegs i = xs) : Effect s i (s.loadRegs xs) :=
  .of_registers (s.loadRegs_frame xs) fun j hj => by
    have hjx : j ∉ xs := hi ▸ hj
    simp [State.getV_loadRegs, hjx]

/-- An address reduced modulo 4096 is below it. -/
theorem wrapAddr_lt (n : Nat) : (wrapAddr n).toNat < 4096 := by
  rw [wrapAddr_toNat]
  exact Nat.mod_lt _ (by decide)

/-- An NNN address is below 4096. -/
theorem addrOf_lt (nnn : BitVec 12) : (addrOf nnn).toNat < 4096 := by
  rw [addrOf_toNat]
  exact nnn.isLt

/-- A skip, taken or not. -/
theorem Effect.of_skipIf (c : Bool) (hi : movesPc i = true) : Effect s i (s.skipIf c) := by
  cases c with
  | false => exact .nothing
  | true => exact .jump _ hi (.inl (wrapAddr_lt _))

/-- A glyph's address lies below 4096. -/
theorem State.glyphAddr?_lt {x : RegIx} {a : Word} (h : s.glyphAddr? x = some a) : a.toNat < 4096 := by
  have hx : (s.getV x).toNat ≤ 15 := by
    by_contra hgt
    simp [s.glyphAddr?_of_gt x (by omega)] at h
  obtain ⟨b, hb, ha⟩ := s.glyphAddr?_of_le x hx
  have := Config.glyphBase.isLt
  rw [Option.some.inj (h.symm.trans hb), ha]
  omega

/-- The target of Bnnn is the sum without a modulo (41_control.md R138). -/
theorem jpV0Target_toNat (s : State) (nnn : BitVec 12) :
    (BitVec.ofNat 16 ((s.getV 0).toNat + nnn.toNat)).toNat = (s.getV 0).toNat + nnn.toNat := by
  have := (s.getV 0).isLt
  have := nnn.isLt
  rw [BitVec.toNat_ofNat, Nat.mod_eq_of_lt (by omega)]

/-! ## The instructions with more than one outcome -/

/-- RET at SP = 0. -/
theorem execRet_of_empty (h : s.sp.val = 0) : execRet s = raise .stackUnderflow s := dif_pos h

/-- RET above SP = 0. -/
theorem execRet_of_pos (h : s.sp.val ≠ 0) :
    execRet s = .next
      { s with sp := ⟨s.sp.val - 1, by omega⟩, pc := s.stack[s.sp.val - 1]'(by omega) } := dif_neg h

/-- CALL below SP = 16. -/
theorem execCall_of_lt (nnn : BitVec 12) (h : s.sp.val < 16) :
    execCall nnn s = .next
      { s with stack := s.stack.set s.sp.val s.pc h, sp := ⟨s.sp.val + 1, by omega⟩, pc := addrOf nnn } :=
  dif_pos h

/-- CALL at SP = 16. -/
theorem execCall_of_full (nnn : BitVec 12) (h : ¬ s.sp.val < 16) :
    execCall nnn s = raise .stackOverflow s := dif_neg h

/-- RET pops or faults. -/
theorem execRet_effect (s : State) : ∃ t, execRet s = .next t ∧ Effect s .ret t := by
  by_cases h : s.sp.val = 0
  · exact ⟨_, execRet_of_empty h, .fault _ rfl⟩
  · exact ⟨_, execRet_of_pos h, .pop h⟩

/-- CALL pushes or faults. -/
theorem execCall_effect (nnn : BitVec 12) (s : State) :
    ∃ t, execCall nnn s = .next t ∧ Effect s (.call nnn) t := by
  by_cases h : s.sp.val < 16
  · exact ⟨_, execCall_of_lt nnn h, .push nnn h⟩
  · exact ⟨_, execCall_of_full nnn h, .fault _ rfl⟩

/-- SKP skips, does not, or faults. -/
theorem execSkp_effect (x : RegIx) (s : State) : ∃ t, execSkp x s = .next t ∧ Effect s (.skp x) t := by
  unfold execSkp
  split
  · exact ⟨_, rfl, .of_skipIf _ rfl⟩
  · exact ⟨_, raise_eq _ s, .fault _ rfl⟩

/-- SKNP skips, does not, or faults. -/
theorem execSknp_effect (x : RegIx) (s : State) : ∃ t, execSknp x s = .next t ∧ Effect s (.sknp x) t := by
  unfold execSknp
  split
  · exact ⟨_, rfl, .of_skipIf _ rfl⟩
  · exact ⟨_, raise_eq _ s, .fault _ rfl⟩

/-- LD Vx, K writes its register or rewinds pc. -/
theorem execLdVxK_effect (x : RegIx) (s : State) :
    ∃ t, execLdVxK x s = .next t ∧ Effect s (.ldVxK x) t := by
  refine ⟨_, rfl, ?_⟩
  split
  · exact .jump _ rfl (.inl (wrapAddr_lt _))
  · exact .of_setV 1 rfl

/-- LD F, Vx writes I or faults. -/
theorem execLdF_effect (x : RegIx) (s : State) : ∃ t, execLdF x s = .next t ∧ Effect s (.ldF x) t := by
  unfold execLdF
  split
  · next h => exact ⟨_, rfl, .index _ (.inr (.inr ⟨x, rfl⟩)) (State.glyphAddr?_lt h)⟩
  · exact ⟨_, raise_eq _ s, .fault _ rfl⟩

/-- A multi-byte store writes or faults. -/
theorem storeBytes_effect (bytes : List Byte) (s : State)
    (hi : (∃ x, i = .ldB x) ∨ (∃ x, i = .ldMemVx x)) :
    ∃ t, storeBytes bytes s = .next t ∧ Effect s i t := by
  have hf : canFault i = true := by rcases hi with ⟨x, rfl⟩ | ⟨x, rfl⟩ <;> rfl
  rcases storeBytes_cases bytes s with ⟨-, h⟩ | ⟨ha, h⟩
  · exact ⟨_, h, .fault _ hf⟩
  · exact ⟨_, h, .store bytes hi ha⟩

end

/-! ## Every instruction -/

/-- Every instruction answers a next state, and its effect is one of the shapes. -/
theorem exec_effect (i : Instr) (s : State) : ∃ t, exec i s = .next t ∧ Effect s i t := by
  cases i with
  | sys nnn => exact ⟨_, rfl, .nothing⟩
  | cls => exact ⟨_, rfl, .clear⟩
  | ret => exact execRet_effect s
  | jp nnn => exact ⟨_, rfl, .jump _ rfl (.inl (addrOf_lt nnn))⟩
  | call nnn => exact execCall_effect nnn s
  | seImm x kk => exact ⟨_, rfl, .of_skipIf _ rfl⟩
  | seReg x y => exact ⟨_, rfl, .of_skipIf _ rfl⟩
  | sneImm x kk => exact ⟨_, rfl, .of_skipIf _ rfl⟩
  | sneReg x y => exact ⟨_, rfl, .of_skipIf _ rfl⟩
  | ldImm x kk => exact ⟨_, rfl, .of_setV _ rfl⟩
  | addImm x kk => exact ⟨_, rfl, .of_setV _ rfl⟩
  | ldReg x y => exact ⟨_, rfl, .of_setV _ rfl⟩
  | orReg x y => exact ⟨_, rfl, .of_setV _ rfl⟩
  | andReg x y => exact ⟨_, rfl, .of_setV _ rfl⟩
  | xorReg x y => exact ⟨_, rfl, .of_setV _ rfl⟩
  | addReg x y => exact ⟨_, rfl, .of_setResultFlag _ _ _ _ rfl⟩
  | subReg x y => exact ⟨_, rfl, .of_setResultFlag _ _ _ _ rfl⟩
  | subnReg x y => exact ⟨_, rfl, .of_setResultFlag _ _ _ _ rfl⟩
  | shr x => exact ⟨_, rfl, .of_setResultFlag _ _ _ _ rfl⟩
  | shl x => exact ⟨_, rfl, .of_setResultFlag _ _ _ _ rfl⟩
  | ldI nnn => exact ⟨_, rfl, .index _ (.inl ⟨nnn, rfl⟩) (addrOf_lt nnn)⟩
  | jpV0 nnn => exact ⟨_, rfl, .jump _ rfl (.inr ⟨nnn, rfl, jpV0Target_toNat s nnn⟩)⟩
  | rnd x kk => exact ⟨_, rfl, .random x kk _⟩
  | drw x y n => exact ⟨_, rfl, .draw x y n _ _⟩
  | skp x => exact execSkp_effect x s
  | sknp x => exact execSknp_effect x s
  | ldVxDt x => exact ⟨_, rfl, .of_setV _ rfl⟩
  | ldVxK x => exact execLdVxK_effect x s
  | ldDtVx x => exact ⟨_, rfl, .delayTimer x _⟩
  | ldStVx x => exact ⟨_, rfl, .soundTimer x _⟩
  | addI x => exact ⟨_, rfl, .index _ (.inr (.inl ⟨x, rfl⟩)) (wrapAddr_lt _)⟩
  | ldF x => exact execLdF_effect x s
  | ldB x => exact storeBytes_effect _ s (.inl ⟨x, rfl⟩)
  | ldMemVx x => exact storeBytes_effect _ s (.inr ⟨x, rfl⟩)
  | ldVxMem x => exact ⟨_, rfl, .of_loadRegs rfl⟩

/-- Inversion of `exec`: whatever next state it answers is of one of the shapes. -/
theorem Effect.of_exec {i : Instr} {s t : State} (h : exec i s = .next t) : Effect s i t := by
  obtain ⟨u, hu, he⟩ := exec_effect i s
  cases h.symm.trans hu
  exact he

/-! ## The step -/

/-- Above 0xFFE a running machine takes the fetch fault (40_cycle.md R110). -/
theorem step_of_fetchFault {s : State} (hrun : s.run = .running) (hpc : 0xFFE < s.pc.toNat) :
    step s = .next (s.clearOutputs.enterFaulted .fetchOutOfRange s.pc) := by
  simp only [step, hrun, cycle]
  exact if_pos hpc

/-- Up to 0xFFE a running machine runs the opcode at pc (40_cycle.md R109). -/
theorem step_of_fetch {s : State} (hrun : s.run = .running) (hpc : s.pc.toNat ≤ 0xFFE) :
    step s = runOpcode s.fetchOp s.beginCycle := by
  simp only [step, hrun, cycle]
  exact if_neg (Nat.not_lt.2 hpc)

/-- EXECUTE and what follows it always answer a next state: an unmatched opcode leaves the state to the rest
of the cycle, an instruction its effect (40_cycle.md R113). -/
theorem runOpcode_next (op : Word) (s : State) :
    ∃ t, (t = s ∨ ∃ i, decode op = .ok i ∧ exec i s = .next t) ∧
      runOpcode op s = .next (if t.run = .faulted then t else t.finishCycle) := by
  unfold runOpcode
  cases hop : decode op with
  | error e => exact ⟨s, .inl rfl, afterExecute_next s⟩
  | ok i =>
    obtain ⟨t, ht, -⟩ := exec_effect i s
    refine ⟨t, .inr ⟨i, rfl, ht⟩, ?_⟩
    simp only [ht]
    exact afterExecute_next t

end Sys2Proof.Machine
end

section
/-! PROOFS. The frame of `exec`: which piece of state an instruction can change, by the shapes of its
effect. -/

namespace Sys2Proof.Machine

/-- Settles O17, by the shapes of an effect. -/
theorem eachStateHasItsOwnWriters : Obligations.EachStateHasItsOwnWriters := by
  unfold Obligations.EachStateHasItsOwnWriters
  intro i s t h
  cases Effect.of_exec h with
  | nothing => simp
  | fault k hi => simp [hi]
  | registers v hv =>
    have hv : destRegs i = [] → v = s.v := fun hd => regs_ext fun j => hv j (by simp [hd])
    simpa using hv
  | jump a hi ha => simp [hi]
  | push nnn h => simp [movesPc, canFault]
  | pop h => simp [movesPc, canFault]
  | clear => simp
  | draw x y n flag fb => simp [destRegs]
  | index a hi ha => rcases hi with ⟨_, rfl⟩ | ⟨_, rfl⟩ | ⟨_, rfl⟩ <;> simp
  | store bytes hi ha => rcases hi with ⟨x, rfl⟩ | ⟨x, rfl⟩ <;> simp
  | random x kk b => simp [destRegs]
  | delayTimer x b => simp
  | soundTimer x b => simp

/-- Settles O18, by the shapes of an effect. -/
theorem registersChangeOnlyAsDestinations : Obligations.RegistersChangeOnlyAsDestinations := by
  unfold Obligations.RegistersChangeOnlyAsDestinations
  intro i s t h j hj
  cases Effect.of_exec h with
  | registers v hv => exact hv j hj
  | draw x y n flag fb =>
    have hjf : j ≠ vf := by simpa [destRegs] using hj
    exact (State.getV_setV s vf j flag).trans (if_neg hjf)
  | store bytes hi ha => simp [State.getV]
  | random x kk b =>
    have hjx : j ≠ x := by simpa [destRegs] using hj
    rw [State.getV_setV, if_neg hjx, State.getV, State.dropDraw_v, State.getV]
  | _ => rfl

end Sys2Proof.Machine
end

section
/-! PROOFS. The range of pc, and the invariant: it holds at reset, an effect keeps it, and so does
everything of a step around EXECUTE. -/

namespace Sys2Proof.Machine

/-! ## Ranges -/

/-- The pc an effect leaves: below 4096, or the target of Bnnn (10_state.md R24). -/
theorem Effect.pc_range {s t : State} {i : Instr} (he : Effect s i t) (hpc : s.pc.toNat < 4096)
    (hstack : ∀ k : Fin 16, s.stack[k].toNat < 4096) :
    t.pc.toNat < 4096 ∨ ∃ nnn, i = .jpV0 nnn ∧ t.pc.toNat = (s.getV 0).toNat + nnn.toNat := by
  cases he with
  | fault k hi => exact .inl (wrapAddr_lt _)
  | jump a hi ha => exact ha
  | push nnn h => exact .inl (addrOf_lt nnn)
  | pop h => exact .inl (hstack ⟨s.sp.val - 1, by omega⟩)
  | store bytes hi ha => exact .inl (by simpa using hpc)
  | random x kk b => exact .inl (by simpa using hpc)
  | _ => exact .inl hpc

/-- Every effect leaves pc in the range of Bnnn. -/
theorem Effect.pc_le {s t : State} {i : Instr} (he : Effect s i t) (hpc : s.pc.toNat < 4096)
    (hstack : ∀ k : Fin 16, s.stack[k].toNat < 4096) : t.pc.toNat ≤ 0x10FE := by
  rcases he.pc_range hpc hstack with hlt | ⟨nnn, -, ha⟩
  · omega
  · have := (s.getV 0).isLt
    have := nnn.isLt
    omega

/-- Settles O14, from what an effect leaves in pc. -/
theorem pcStaysInItsRange : Obligations.PcStaysInItsRange := by
  unfold Obligations.PcStaysInItsRange
  refine ⟨fun i s t hpc hstack h => ?_, fun nnn s => ?_, fun s hrun hpc => ?_⟩
  · have he := Effect.of_exec h
    refine ⟨fun hi => ?_, he.pc_le hpc hstack⟩
    rcases he.pc_range hpc hstack with hlt | ⟨nnn, rfl, -⟩
    · exact hlt
    · exact absurd rfl (hi nnn)
  · exact ⟨_, rfl, jpV0Target_toNat s nnn, rfl⟩
  · exact ⟨_, step_of_fetchFault hrun hpc, rfl, rfl⟩

/-! ## The invariant -/

/-- Settles O12. -/
theorem invariantHoldsAtReset : Obligations.InvariantHoldsAtReset := by
  unfold Obligations.InvariantHoldsAtReset State.Inv
  exact ⟨rfl, by simp [State.reset], by decide, by decide, by decide, fun _ => rfl, by simp [State.reset]⟩

/-- The bound of a canonical list, apart from its canonical form. -/
theorem Memory.wfFrom_iff {m : Memory} {lo : Nat} :
    Memory.wfFrom lo m = true ↔ Memory.wf m = true ∧ ∀ c ∈ m, lo ≤ c.1 := by
  constructor
  · intro hm
    refine ⟨Memory.wfFrom_mono (Nat.zero_le lo) hm, ?_⟩
    induction m generalizing lo with
    | nil => simp
    | cons c rest ih =>
      simp only [Memory.wfFrom, Bool.and_eq_true, decide_eq_true_eq] at hm
      obtain ⟨⟨⟨hlo, -⟩, -⟩, hrest⟩ := hm
      intro d hd
      rcases List.mem_cons.1 hd with rfl | hd
      · exact hlo
      · have := ih hrest d hd
        omega
  · rintro ⟨hm, hlo⟩
    cases m with
    | nil => rfl
    | cons c rest =>
      simp only [Memory.wf, Memory.wfFrom, Bool.and_eq_true, decide_eq_true_eq] at hm ⊢
      obtain ⟨⟨⟨-, hlt⟩, hne⟩, hrest⟩ := hm
      exact ⟨⟨⟨hlo c List.mem_cons_self, hlt⟩, hne⟩, hrest⟩

/-- A multi-byte store whose addresses lie at or above `lo` keeps a list canonical from `lo`. -/
theorem State.writeBytes_wfFrom (s : State) (k : Nat) (bytes : List Byte) {lo : Nat}
    (hm : Memory.wfFrom lo s.mem = true) (hlo : ∀ j < bytes.length, lo ≤ s.ea (k + j)) :
    Memory.wfFrom lo (s.writeBytes k bytes).mem = true := by
  induction bytes generalizing s k with
  | nil => exact hm
  | cons b rest ih =>
    refine ih _ _ (Memory.write_wfFrom b hm (hlo 0 (by simp)) (s.ea_lt k)) fun j hj => ?_
    have := hlo (j + 1) (by simpa using hj)
    simpa [Nat.add_assoc, Nat.add_comm 1 j] using this

/-- The invariant speaks of these seven fields alone. -/
theorem State.Inv.congr {s t : State} (hs : s.Inv) (hmem : t.mem = s.mem) (hindex : t.index = s.index)
    (hpc : t.pc = s.pc) (hstack : t.stack = s.stack) (hrun : t.run = s.run) (hfault : t.fault = s.fault)
    (hfaultPc : t.faultPc = s.faultPc) : t.Inv := by
  unfold State.Inv
  rw [hmem, hindex, hpc, hstack, hrun, hfault, hfaultPc]
  exact hs

/-- RENDER, TICK and POLL keep the invariant. -/
theorem State.Inv.finishCycle {s : State} (hs : s.Inv) : s.finishCycle.Inv := by
  unfold State.finishCycle
  apply hs.congr <;> simp

/-- The pre-advance of a running machine keeps the invariant. -/
theorem State.Inv.beginCycle {s : State} (hs : s.Inv) (hrun : s.run = .running) : s.beginCycle.Inv := by
  obtain ⟨hwf, hlow, hindex, -, hstack, hrunning, -⟩ := hs
  have hpc := wrapAddr_lt (s.pc.toNat + 2)
  exact ⟨hwf, hlow, hindex, by rw [State.beginCycle_pc]; omega, hstack, hrunning, by simp [hrun]⟩

/-- What an effect keeps of the invariant, from RUNNING with a pre-advanced pc. -/
theorem Effect.inv {s t : State} {i : Instr} (he : Effect s i t) (hs : s.Inv) (hrun : s.run = .running)
    (hpc : s.pc.toNat < 4096) : t.Inv := by
  obtain ⟨hwf, hlow, hindex, -, hstack, hrunning, -⟩ := id hs
  have hpc' : t.pc.toNat ≤ 0x10FE := he.pc_le hpc hstack
  have hnone : s.fault = none := hrunning hrun
  cases he with
  | fault k hi => exact ⟨hwf, hlow, hindex, hpc', hstack, by simp, by simp⟩
  | push nnn h =>
    refine ⟨hwf, hlow, hindex, hpc', fun k => ?_, by simp [hnone], by simp [hrun]⟩
    simp only [Fin.getElem_fin, Vector.getElem_set]
    split
    · exact hpc
    · exact hstack k
  | index a hi ha => exact ⟨hwf, hlow, ha, hpc', hstack, by simp [hnone], by simp [hrun]⟩
  | store bytes hi ha =>
    have hea : ∀ j < bytes.length, 0x200 ≤ s.ea (0 + j) := by
      simpa using (s.touchesReserved_false_iff _).1 ha
    have hmem := s.writeBytes_wfFrom 0 bytes (Memory.wfFrom_iff.2 ⟨hwf, hlow⟩) hea
    obtain ⟨hwf', hlow'⟩ := Memory.wfFrom_iff.1 hmem
    refine ⟨hwf', hlow', ?_, hpc', ?_, by simp [hnone], by simp [hrun]⟩
    · simpa using hindex
    · simpa using hstack
  | random x kk b => apply hs.congr <;> simp
  | _ => exact ⟨hwf, hlow, hindex, hpc', hstack, by simp [hnone], by simp [hrun]⟩

/-! ## The step keeps it -/

/-- A boot leaves a state that meets the invariant. -/
theorem boot_inv {s t : State} (h : boot s = .next t) : t.Inv := by
  unfold boot at h
  split at h
  · cases h
  · next bytes _ =>
    split at h
    · next hlen =>
      cases h
      have hmem : Memory.wfFrom 0x200 (Memory.load [] 0x200 bytes) = true :=
        Memory.load_wfFrom bytes rfl (Nat.le_refl _) (Nat.add_le_add_left hlen 0x200)
      obtain ⟨hwf, hlow⟩ := Memory.wfFrom_iff.1 hmem
      obtain ⟨-, -, hrest⟩ := invariantHoldsAtReset
      exact ⟨hwf, hlow, hrest⟩
    · cases h

/-- A cycle keeps the invariant. -/
theorem step_inv_of_running {s t : State} (hs : s.Inv) (hrun : s.run = .running) (h : step s = .next t) :
    t.Inv := by
  rcases Nat.lt_or_ge 0xFFE s.pc.toNat with hpc | hpc
  · cases h.symm.trans (step_of_fetchFault hrun hpc)
    obtain ⟨hwf, hlow, hindex, hle, hstack, -, -⟩ := hs
    exact ⟨hwf, hlow, hindex, hle, hstack, by simp, by simp⟩
  · obtain ⟨u, hu, hstep⟩ := runOpcode_next s.fetchOp s.beginCycle
    cases h.symm.trans ((step_of_fetch hrun hpc).trans hstep)
    have hbegin := hs.beginCycle hrun
    have hinv : u.Inv := by
      rcases hu with rfl | ⟨i, -, hexec⟩
      · exact hbegin
      · exact (Effect.of_exec hexec).inv hbegin hrun (wrapAddr_lt _)
    split
    · exact hinv
    · exact hinv.finishCycle

/-- Settles O13, by the run state: boot starts from the reset values, a cycle is an effect between steps that
keep the invariant, and FAULTED has no step. -/
theorem everyStepKeepsTheInvariant : Obligations.EveryStepKeepsTheInvariant := by
  unfold Obligations.EveryStepKeepsTheInvariant
  intro s t hs h
  cases hrun : s.run with
  | boot => exact boot_inv (by simpa only [step, hrun] using h)
  | running => exact step_inv_of_running hs hrun h
  | faulted => simp [step, hrun] at h

end Sys2Proof.Machine
end

section
/-! PROOFS. Dead stack entries: two states whose stacks agree on the entries in use step to two such
states. All but CALL and RET commute with replacing the stack; CALL and RET touch entries in use alone. -/

namespace Sys2Proof.Machine

/-- The state with another stack. -/
def State.withStack (s : State) (stack : Vector Word 16) : State := { s with stack := stack }

/-- The result with another stack in its next state. -/
def resultWithStack (stack : Vector Word 16) (r : Result) : Result :=
  match r with
  | .next s => .next (s.withStack stack)
  | .fault f => .fault f
  | .refused q => .refused q

/-- The stack agrees with that of s on the entries in use (10_state.md R26). -/
def State.AgreesInUse (s : State) (stack : Vector Word 16) : Prop :=
  ∀ k : Fin 16, k.val < s.sp.val → stack[k] = s.stack[k]

/-! ## What does not see the stack -/

section
variable (s : State) (d : Vector Word 16)

theorem State.skipIf_withStack (c : Bool) : (s.withStack d).skipIf c = (s.skipIf c).withStack d := by
  cases c <;> rfl

theorem State.setResultFlag_withStack (o : VfDestOrder) (x : RegIx) (r f l : Byte) :
    (s.withStack d).setResultFlag o x r f l = (s.setResultFlag o x r f l).withStack d := by
  unfold State.setResultFlag
  split <;> rfl

theorem State.dropDraw_withStack : (s.withStack d).dropDraw = s.dropDraw.withStack d := by
  unfold State.dropDraw State.withStack
  cases s.drawInput <;> rfl

theorem State.dropKeys_withStack : (s.withStack d).dropKeys = s.dropKeys.withStack d := by
  unfold State.dropKeys State.withStack
  cases s.keyInput <;> rfl

theorem State.render_withStack : (s.withStack d).render = s.render.withStack d := by
  cases h : s.redraw <;> simp [State.render, State.withStack, h]

theorem State.finishCycle_withStack : (s.withStack d).finishCycle = s.finishCycle.withStack d := by
  have hpoll : ∀ u : State, (u.withStack d).poll = u.poll.withStack d := fun u => by
    unfold State.poll
    rw [State.dropKeys_withStack]
    rfl
  unfold State.finishCycle
  rw [State.render_withStack, ← hpoll]
  rfl

theorem State.writeBytes_withStack (k : Nat) (bytes : List Byte) :
    (s.withStack d).writeBytes k bytes = (s.writeBytes k bytes).withStack d := by
  induction bytes generalizing s k with
  | nil => rfl
  | cons b rest ih => exact ih (s.memWrite (s.ea k) b) (k + 1)

theorem State.loadRegs_withStack (xs : List RegIx) :
    (s.withStack d).loadRegs xs = (s.loadRegs xs).withStack d := by
  induction xs generalizing s with
  | nil => rfl
  | cons x rest ih => exact ih (s.setV x (s.memRead (s.ea x.val)))

theorem storeBytes_withStack (bytes : List Byte) :
    storeBytes bytes (s.withStack d) = resultWithStack d (storeBytes bytes s) := by
  have hcheck : (s.withStack d).touchesReserved bytes.length = s.touchesReserved bytes.length := rfl
  unfold storeBytes
  rw [hcheck, State.writeBytes_withStack]
  split <;> rfl

theorem execSkp_withStack (x : RegIx) : execSkp x (s.withStack d) = resultWithStack d (execSkp x s) := by
  have hkey : (s.withStack d).keyOf? x = s.keyOf? x := rfl
  unfold execSkp
  rw [hkey]
  cases s.keyOf? x with
  | none => rfl
  | some down => exact congrArg Host.Outcome.next (s.skipIf_withStack d down)

theorem execSknp_withStack (x : RegIx) : execSknp x (s.withStack d) = resultWithStack d (execSknp x s) := by
  have hkey : (s.withStack d).keyOf? x = s.keyOf? x := rfl
  unfold execSknp
  rw [hkey]
  cases s.keyOf? x with
  | none => rfl
  | some down => exact congrArg Host.Outcome.next (s.skipIf_withStack d !down)

theorem execLdVxK_withStack (x : RegIx) :
    execLdVxK x (s.withStack d) = resultWithStack d (execLdVxK x s) := by
  have hpressed : (s.withStack d).pressedCount = s.pressedCount := rfl
  unfold execLdVxK
  rw [hpressed]
  split <;> rfl

theorem execLdF_withStack (x : RegIx) : execLdF x (s.withStack d) = resultWithStack d (execLdF x s) := by
  have hglyph : (s.withStack d).glyphAddr? x = s.glyphAddr? x := rfl
  unfold execLdF
  rw [hglyph]
  split <;> rfl

/-- An instruction that is neither CALL nor RET does not see the stack. -/
theorem exec_withStack {i : Instr} (hcall : ∀ nnn, i ≠ .call nnn) (hret : i ≠ .ret) :
    exec i (s.withStack d) = resultWithStack d (exec i s) := by
  cases i with
  | call nnn => exact absurd rfl (hcall nnn)
  | ret => exact absurd rfl hret
  | seImm x kk => exact congrArg _ (s.skipIf_withStack d _)
  | seReg x y => exact congrArg _ (s.skipIf_withStack d _)
  | sneImm x kk => exact congrArg _ (s.skipIf_withStack d _)
  | sneReg x y => exact congrArg _ (s.skipIf_withStack d _)
  | addReg x y => exact congrArg _ (s.setResultFlag_withStack d _ _ _ _ _)
  | subReg x y => exact congrArg _ (s.setResultFlag_withStack d _ _ _ _ _)
  | subnReg x y => exact congrArg _ (s.setResultFlag_withStack d _ _ _ _ _)
  | shr x => exact congrArg _ (s.setResultFlag_withStack d _ _ _ _ _)
  | shl x => exact congrArg _ (s.setResultFlag_withStack d _ _ _ _ _)
  | rnd x kk => exact congrArg (fun u : State => Host.Outcome.next (u.setV x _)) (s.dropDraw_withStack d)
  | skp x => exact execSkp_withStack s d x
  | sknp x => exact execSknp_withStack s d x
  | ldVxK x => exact execLdVxK_withStack s d x
  | ldF x => exact execLdF_withStack s d x
  | ldB x => exact storeBytes_withStack s d _
  | ldMemVx x => exact storeBytes_withStack s d _
  | ldVxMem x => exact congrArg _ (s.loadRegs_withStack d _)
  | _ => rfl

end

/-! ## The two instructions that see the stack -/

section
variable {s t : State} {d : Vector Word 16}

/-- Agreement on the entries in use looks at SP and the stack alone. -/
theorem State.AgreesInUse.congr (h : s.AgreesInUse d) (hsp : t.sp = s.sp) (hstack : t.stack = s.stack) :
    t.AgreesInUse d := by
  unfold State.AgreesInUse
  rw [hsp, hstack]
  exact h

/-- CALL writes the entry at SP, which the stacks agree on from then on. -/
theorem execCall_agreesInUse (nnn : BitVec 12) (hd : s.AgreesInUse d) :
    ∃ t after, execCall nnn s = .next t ∧ execCall nnn (s.withStack d) = .next (t.withStack after) ∧
      t.AgreesInUse after := by
  by_cases h : s.sp.val < 16
  · refine ⟨_, d.set s.sp.val s.pc h, execCall_of_lt nnn h, execCall_of_lt (s := s.withStack d) nnn h,
      fun k hk => ?_⟩
    simp only [Fin.getElem_fin, Vector.getElem_set]
    split
    · rfl
    · next hne => exact hd k (by simp only at hk; omega)
  · exact ⟨_, d, execCall_of_full nnn h, execCall_of_full (s := s.withStack d) nnn h, hd⟩

/-- RET reads the entry below SP, which is in use. -/
theorem execRet_agreesInUse (hd : s.AgreesInUse d) :
    ∃ t after, execRet s = .next t ∧ execRet (s.withStack d) = .next (t.withStack after) ∧
      t.AgreesInUse after := by
  by_cases h : s.sp.val = 0
  · exact ⟨_, d, execRet_of_empty h, execRet_of_empty (s := s.withStack d) h, hd⟩
  · have hlast : d[s.sp.val - 1]'(by omega) = s.stack[s.sp.val - 1]'(by omega) :=
      hd ⟨s.sp.val - 1, by omega⟩ (by simp only; omega)
    refine ⟨_, d, execRet_of_pos h, (execRet_of_pos (s := s.withStack d) h).trans ?_,
      fun k hk => hd k (by simp only at hk; omega)⟩
    simp only [State.withStack, hlast]

/-- Every instruction takes stacks that agree on the entries in use to stacks that do. -/
theorem exec_agreesInUse (i : Instr) (hd : s.AgreesInUse d) :
    ∃ t after, exec i s = .next t ∧ exec i (s.withStack d) = .next (t.withStack after) ∧
      t.AgreesInUse after := by
  by_cases hret : i = .ret
  · subst hret
    exact execRet_agreesInUse hd
  by_cases hcall : ∃ nnn, i = .call nnn
  · obtain ⟨nnn, rfl⟩ := hcall
    exact execCall_agreesInUse nnn hd
  have hcall : ∀ nnn, i ≠ .call nnn := fun nnn hi => hcall ⟨nnn, hi⟩
  obtain ⟨t, ht, -⟩ := exec_effect i s
  obtain ⟨-, -, -, -, -, -, hframe, -⟩ := eachStateHasItsOwnWriters i s t ht
  obtain ⟨hsp, hstack⟩ := hframe hret hcall
  refine ⟨t, d, ht, ?_, hd.congr hsp hstack⟩
  rw [exec_withStack s d hcall hret, ht]
  rfl

/-! ## The cycle -/

/-- The rest of the cycle keeps the agreement. -/
theorem afterExecute_agreesInUse (hd : s.AgreesInUse d) :
    ∃ t, afterExecute (.next s) = .next t ∧ afterExecute (.next (s.withStack d)) = .next (t.withStack d) ∧
      t.AgreesInUse d := by
  refine ⟨_, afterExecute_next s, ?_, ?_⟩
  · rw [afterExecute_next, State.finishCycle_withStack]
    exact congrArg _ (apply_ite (State.withStack · d) (s.run = .faulted) _ _).symm
  · split
    · exact hd
    · exact hd.congr (by simp [State.finishCycle]) (by simp [State.finishCycle])

/-- EXECUTE and the rest of the cycle keep the agreement. -/
theorem runOpcode_agreesInUse (op : Word) (hd : s.AgreesInUse d) :
    ∃ t after, runOpcode op s = .next t ∧ runOpcode op (s.withStack d) = .next (t.withStack after) ∧
      t.AgreesInUse after := by
  unfold runOpcode
  cases decode op with
  | error e =>
    obtain ⟨t, ht, htd, hagree⟩ := afterExecute_agreesInUse hd
    exact ⟨t, d, ht, htd, hagree⟩
  | ok i =>
    obtain ⟨u, after, hu, hud, huagree⟩ := exec_agreesInUse i hd
    obtain ⟨t, ht, htd, hagree⟩ := afterExecute_agreesInUse huagree
    exact ⟨t, after, by simpa only [hu] using ht, by simpa only [hud] using htd, hagree⟩

end

/-- Settles O45: FETCH reads no stack, and EXECUTE and the rest of the cycle keep the agreement on the
entries in use. -/
theorem deadStackEntriesAreNeverSeen : Obligations.DeadStackEntriesAreNeverSeen := by
  unfold Obligations.DeadStackEntriesAreNeverSeen
  intro s dead hrun hd
  have hrun' : (s.withStack dead).run = .running := hrun
  rcases Nat.lt_or_ge 0xFFE s.pc.toNat with hpc | hpc
  · exact ⟨_, dead, step_of_fetchFault hrun hpc, step_of_fetchFault hrun' hpc, hd⟩
  · have hbegin : s.beginCycle.AgreesInUse dead := hd
    obtain ⟨t, after, ht, htd, hagree⟩ := runOpcode_agreesInUse s.fetchOp hbegin
    exact ⟨t, after, (step_of_fetch hrun hpc).trans ht, (step_of_fetch hrun' hpc).trans htd, hagree⟩

end Sys2Proof.Machine
end

section
/-! PROOFS. The state after reset, with the glyph table at GLYPH_BASE (10_state.md R37). -/

namespace Sys2Proof.Machine

/-- After reset the glyph table holds GLYPH_DATA. -/
theorem memRead_reset_glyph {k : Nat} (hk : k < 80) :
    State.reset.memRead (Config.glyphBase.val + k) = glyphData.getD k 0 := unlistedByte_glyph k hk

/-- The glyph of digit d after reset is the d-th group of five bytes of GLYPH_DATA. -/
theorem glyphAtReset (d : Nat) (hd : d < 16) : GlyphAtReset d ((glyphData.drop (5 * d)).take 5) := by
  have hlen : glyphData.length = 80 := rfl
  intro r hr
  have hr : r < 5 := by simp only [List.length_take] at hr; omega
  rw [memRead_reset_glyph (by omega), List.getElem_take, List.getElem_drop, List.getD_eq_getElem]

/-- Outside the glyph table the reset contents are 0. -/
theorem unlistedByte_outside {a : Nat} (ha : a < glyphBase ∨ glyphBase + 80 ≤ a) : unlistedByte a = 0 := by
  have hlen : glyphData.length = 80 := rfl
  unfold unlistedByte
  split
  · split
    · rw [List.getD_eq_default _ _ (by omega)]
    · rfl
  · rfl

/-- Settles O46. -/
theorem resetStateIsAsListed : Obligations.ResetStateIsAsListed := by
  unfold Obligations.ResetStateIsAsListed
  refine ⟨rfl, rfl, rfl, rfl, rfl, rfl, rfl, rfl, rfl, rfl, by decide, by decide, by decide,
    fun d row hd hrow => memRead_reset_glyph (by omega),
    glyphAtReset 0 (by decide), glyphAtReset 1 (by decide), glyphAtReset 2 (by decide),
    glyphAtReset 3 (by decide), glyphAtReset 4 (by decide), glyphAtReset 5 (by decide),
    glyphAtReset 6 (by decide), glyphAtReset 7 (by decide), glyphAtReset 8 (by decide),
    glyphAtReset 9 (by decide), glyphAtReset 10 (by decide), glyphAtReset 11 (by decide),
    glyphAtReset 12 (by decide), glyphAtReset 13 (by decide), glyphAtReset 14 (by decide),
    glyphAtReset 15 (by decide), fun a ha => unlistedByte_outside ha⟩

end Sys2Proof.Machine
end

section
/-! PROOFS. What each instruction with more than one outcome answers, one equation per case; those of CALL
and RET stand with their effects. -/

namespace Sys2Proof.Machine

section
variable {s : State}

/-- A multi-byte store clear of the reserved range writes its bytes (20_memory.md R60). -/
theorem storeBytes_of_clear {bytes : List Byte} (h : s.touchesReserved bytes.length = false) :
    storeBytes bytes s = .next (s.writeBytes 0 bytes) := if_neg (by simp [h])

/-- A multi-byte store that touches the reserved range writes nothing and faults (20_memory.md R59). -/
theorem storeBytes_of_reserved {bytes : List Byte}
    (h : s.touchesReserved bytes.length = true) : storeBytes bytes s = raise .reservedWrite s := if_pos h

/-- SKP of a key that exists (44_timers_keys.md R220). -/
theorem execSkp_of_key {x : RegIx} {down : Bool} (h : s.keyOf? x = some down) :
    execSkp x s = .next (s.skipIf down) := by simp only [execSkp, h]

/-- SKP of a key above 15. -/
theorem execSkp_of_noKey {x : RegIx} (h : s.keyOf? x = none) :
    execSkp x s = raise .keyIndex s := by simp only [execSkp, h]

/-- SKNP of a key that exists (44_timers_keys.md R221). -/
theorem execSknp_of_key {x : RegIx} {down : Bool} (h : s.keyOf? x = some down) :
    execSknp x s = .next (s.skipIf !down) := by simp only [execSknp, h]

/-- SKNP of a key above 15. -/
theorem execSknp_of_noKey {x : RegIx} (h : s.keyOf? x = none) :
    execSknp x s = raise .keyIndex s := by simp only [execSknp, h]

/-- LD F, Vx of a digit (45_index_memory.md R242). -/
theorem execLdF_of_glyph {x : RegIx} {a : Word} (h : s.glyphAddr? x = some a) :
    execLdF x s = .next { s with index := a } := by simp only [execLdF, h]

/-- LD F, Vx above 15. -/
theorem execLdF_of_noGlyph {x : RegIx} (h : s.glyphAddr? x = none) :
    execLdF x s = raise .glyphIndex s := by simp only [execLdF, h]

/-- LD Vx, K with no key down goes back to its opcode (44_timers_keys.md R223). -/
theorem execLdVxK_of_none (x : RegIx) (h : s.pressedCount = 0) :
    execLdVxK x s = .next s.rewind := congrArg Host.Outcome.next (if_pos h)

/-- LD Vx, K with a key down writes 1 (44_timers_keys.md R223). -/
theorem execLdVxK_of_pressed (x : RegIx) (h : s.pressedCount ≠ 0) :
    execLdVxK x s = .next (s.setV x 1) := congrArg Host.Outcome.next (if_neg h)

end

end Sys2Proof.Machine
end

section
/-! PROOFS. The memory: the reserved range is read-only (20_memory.md R53, R59), and a byte stored at pc is
a byte the next fetch reads (R55, R65). -/

namespace Sys2Proof.Machine

/-! ## The reserved range -/

/-- No effect changes a byte of the reserved range: a store outside it is the only one to write memory. -/
theorem Effect.memRead_reserved {s t : State} {i : Instr} (he : Effect s i t) {a : Nat} (ha : a < 0x200) :
    t.memRead a = s.memRead a := by
  cases he with
  | store bytes hi hclear =>
    refine s.memRead_writeBytes_other 0 bytes fun j hj => ?_
    have := (s.touchesReserved_false_iff _).1 hclear j hj
    rw [Nat.zero_add]
    omega
  | random x kk b => simp [State.memRead]
  | _ => rfl

/-- RENDER, TICK and POLL leave memory as it was. -/
theorem State.memRead_finishCycle (s : State) (a : Nat) : s.finishCycle.memRead a = s.memRead a := by
  simp [State.memRead, State.finishCycle]

/-- Settles O16: a fetch fault writes no memory, and neither does anything of a cycle around EXECUTE. -/
theorem reservedRangeIsNeverWritten : Obligations.ReservedRangeIsNeverWritten := by
  unfold Obligations.ReservedRangeIsNeverWritten
  intro s t hrun h a ha
  rcases Nat.lt_or_ge 0xFFE s.pc.toNat with hpc | hpc
  · cases h.symm.trans (step_of_fetchFault hrun hpc)
    rfl
  · obtain ⟨u, hu, hstep⟩ := runOpcode_next s.fetchOp s.beginCycle
    cases h.symm.trans ((step_of_fetch hrun hpc).trans hstep)
    have hread : u.memRead a = s.memRead a := by
      rcases hu with rfl | ⟨i, -, hexec⟩
      · rfl
      · exact (Effect.of_exec hexec).memRead_reserved ha
    split
    · exact hread
    · rw [State.memRead_finishCycle, hread]

/-! ## Code in memory -/

/-- The opcode of two bytes, high byte first (20_memory.md R55). -/
theorem opcodeOfBytes_toNat (hi lo : Byte) : (opcodeOfBytes hi lo).toNat = hi.toNat * 256 + lo.toNat := by
  have := hi.isLt
  have := lo.isLt
  rw [opcodeOfBytes, BitVec.toNat_ofNat, Nat.mod_eq_of_lt (by omega)]

/-- The opcode laid at pc is the one fetched there. -/
theorem State.fetchOp_placeOpcode {s : State} (op : Word) (hm : Memory.wf s.mem = true)
    (hpc : s.pc.toNat ≤ 0xFFE) : (s.placeOpcode op).fetchOp = op := by
  have hm' := Memory.write_wf (opHigh op) hm (a := s.pc.toNat) (by simp only [memSize]; omega)
  have hhigh : (s.placeOpcode op).memRead s.pc.toNat = opHigh op :=
    (Memory.read_write_other _ _ (by omega)).trans (Memory.read_write_same hm _ _)
  have hlow : (s.placeOpcode op).memRead (s.pc.toNat + 1) = opLow op := Memory.read_write_same hm' _ _
  calc (s.placeOpcode op).fetchOp
      = opcodeOfBytes ((s.placeOpcode op).memRead s.pc.toNat)
          ((s.placeOpcode op).memRead (s.pc.toNat + 1)) := rfl
    _ = op := by rw [hhigh, hlow, opcodeOfBytes_high_low]

/-- Settles O48: a table word of 16 bits is laid whole. -/
theorem placedWordIsFetched : Obligations.PlacedWordIsFetched := by
  unfold Obligations.PlacedWordIsFetched
  intro s w hm hpc hw
  rw [State.withFetchWord, State.fetchOp_placeOpcode _ hm hpc]
  simp only [tableOpcode, BitVec.toNat_ofNat]
  omega

/-- A multi-byte store that did not fault wrote its bytes. -/
theorem eq_writeBytes_of_storeBytes {bytes : List Byte} {s t : State} (h : storeBytes bytes s = .next t)
    (hrun : t.run ≠ .faulted) : t = s.writeBytes 0 bytes := by
  rcases storeBytes_cases bytes s with ⟨-, hfault⟩ | ⟨-, hwrite⟩
  · cases h.symm.trans hfault
    exact absurd rfl hrun
  · cases h.symm.trans hwrite
    rfl

/-- The k-th byte that Fx55 stores is `V[k]`. -/
theorem State.getElem_regsUpTo (s : State) (x j : RegIx) (hj : j.val < (s.regsUpTo x).length) :
    (s.regsUpTo x)[j.val] = s.getV j := by
  simp [State.regsUpTo, State.getV]

/-- After an Fx55 that did not fault, `V[j]` stands at `ea(j)` for every j up to X. -/
theorem memRead_of_execLdMemVx {x : RegIx} {s t : State} (hm : Memory.wf s.mem = true)
    (h : execLdMemVx x s = .next t) (hrun : t.run ≠ .faulted) {j : RegIx} (hj : j ≤ x) :
    t.memRead (s.ea j.val) = s.getV j := by
  have hjx : j.val < (s.regsUpTo x).length := by
    rw [State.regsUpTo_length]
    exact Nat.lt_succ_of_le hj
  have hlen : (s.regsUpTo x).length ≤ 4096 := by
    rw [State.regsUpTo_length]
    omega
  rw [eq_writeBytes_of_storeBytes h hrun, ← s.getElem_regsUpTo x j hjx,
    ← s.memRead_writeBytes_same 0 (s.regsUpTo x) hm hlen hjx, Nat.zero_add]

/-- Settles O44: the two bytes at pc are two of the bytes stored, and the store leaves pc. -/
theorem storedCodeIsFetched : Obligations.StoredCodeIsFetched := by
  unfold Obligations.StoredCodeIsFetched
  intro x j s t hm h hrun hj hpc hpc'
  have hnext : (j + 1).val = j.val + 1 := Fin.val_add_one_of_lt (hj.trans_le (Fin.le_last x))
  have hhigh : t.memRead s.pc.toNat = s.getV j :=
    hpc ▸ memRead_of_execLdMemVx hm h hrun hj.le
  have hlow : t.memRead (s.pc.toNat + 1) = s.getV (j + 1) := by
    rw [hpc', ← hnext]
    exact memRead_of_execLdMemVx hm h hrun (Fin.add_one_le_of_lt hj)
  have hkept : t.pc = s.pc := by
    rw [eq_writeBytes_of_storeBytes h hrun, State.writeBytes_pc]
  rw [State.fetchOp, hkept, hhigh, hlow, opcodeOfBytes_toNat]

end Sys2Proof.Machine
end

section
/-! PROOFS. No instruction but DRW reads the framebuffer: on two states that differ in FB alone, each of the
others answers states that differ in FB alone (10_state.md R29, 20_memory.md R51). The shared operations
commute with replacing FB, and an instruction with more than one outcome takes the same one. -/

namespace Sys2Proof.Machine

/-- The state with another framebuffer. -/
def State.withFb (s : State) (f : Frame) : State := { s with fb := f }

/-- The two results are next states that differ in FB alone. -/
def AgreeButFb (r r' : Result) : Prop := ∃ t g, r = .next t ∧ r' = .next (t.withFb g)

/-! ## What does not see the framebuffer -/

section
variable (s : State) (f : Frame)

/-- A skip, taken or not. -/
theorem State.skipIf_withFb (c : Bool) : (s.withFb f).skipIf c = (s.skipIf c).withFb f := by
  cases c <;> rfl

/-- The write of a result and its flag. -/
theorem State.setResultFlag_withFb (o : VfDestOrder) (x : RegIx) (r fl l : Byte) :
    (s.withFb f).setResultFlag o x r fl l = (s.setResultFlag o x r fl l).withFb f := by
  unfold State.setResultFlag
  split <;> rfl

/-- The draw consumed (42_alu.md R171). -/
theorem State.dropDraw_withFb : (s.withFb f).dropDraw = s.dropDraw.withFb f := by
  unfold State.dropDraw State.withFb
  cases s.drawInput <;> rfl

/-- The bytes of a store. -/
theorem State.writeBytes_withFb (k : Nat) (bytes : List Byte) :
    (s.withFb f).writeBytes k bytes = (s.writeBytes k bytes).withFb f := by
  induction bytes generalizing s k with
  | nil => rfl
  | cons b rest ih => exact ih (s.memWrite (s.ea k) b) (k + 1)

/-- The bytes of a load. -/
theorem State.loadRegs_withFb (xs : List RegIx) :
    (s.withFb f).loadRegs xs = (s.loadRegs xs).withFb f := by
  induction xs generalizing s with
  | nil => rfl
  | cons x rest ih => exact ih (s.setV x (s.memRead (s.ea x.val)))

/-! ## The instructions with more than one outcome: both states take the same one -/

/-- The check of the reserved range looks at I. -/
theorem storeBytes_agreeButFb (bytes : List Byte) :
    AgreeButFb (storeBytes bytes s) (storeBytes bytes (s.withFb f)) := by
  cases h : s.touchesReserved bytes.length with
  | false =>
    exact ⟨_, f, storeBytes_of_clear h,
      (storeBytes_of_clear (s := s.withFb f) h).trans (congrArg _ (s.writeBytes_withFb f 0 bytes))⟩
  | true => exact ⟨_, f, storeBytes_of_reserved h, storeBytes_of_reserved (s := s.withFb f) h⟩

/-- SKP looks at the key that V[X] names. -/
theorem execSkp_agreeButFb (x : RegIx) : AgreeButFb (execSkp x s) (execSkp x (s.withFb f)) := by
  cases h : s.keyOf? x with
  | none => exact ⟨_, f, execSkp_of_noKey h, execSkp_of_noKey (s := s.withFb f) h⟩
  | some down =>
    exact ⟨_, f, execSkp_of_key h,
      (execSkp_of_key (s := s.withFb f) h).trans (congrArg _ (s.skipIf_withFb f down))⟩

/-- SKNP looks at the key that V[X] names. -/
theorem execSknp_agreeButFb (x : RegIx) : AgreeButFb (execSknp x s) (execSknp x (s.withFb f)) := by
  cases h : s.keyOf? x with
  | none => exact ⟨_, f, execSknp_of_noKey h, execSknp_of_noKey (s := s.withFb f) h⟩
  | some down =>
    exact ⟨_, f, execSknp_of_key h,
      (execSknp_of_key (s := s.withFb f) h).trans (congrArg _ (s.skipIf_withFb f !down))⟩

/-- LD F, Vx looks at the digit alone. -/
theorem execLdF_agreeButFb (x : RegIx) : AgreeButFb (execLdF x s) (execLdF x (s.withFb f)) := by
  cases h : s.glyphAddr? x with
  | none => exact ⟨_, f, execLdF_of_noGlyph h, execLdF_of_noGlyph (s := s.withFb f) h⟩
  | some a => exact ⟨_, f, execLdF_of_glyph h, execLdF_of_glyph (s := s.withFb f) h⟩

/-- LD Vx, K looks at the number of keys down. -/
theorem execLdVxK_agreeButFb (x : RegIx) : AgreeButFb (execLdVxK x s) (execLdVxK x (s.withFb f)) := by
  by_cases h : s.pressedCount = 0
  · exact ⟨_, f, execLdVxK_of_none x h, execLdVxK_of_none (s := s.withFb f) x h⟩
  · exact ⟨_, f, execLdVxK_of_pressed x h, execLdVxK_of_pressed (s := s.withFb f) x h⟩

/-- RET looks at SP. -/
theorem execRet_agreeButFb : AgreeButFb (execRet s) (execRet (s.withFb f)) := by
  by_cases h : s.sp.val = 0
  · exact ⟨_, f, execRet_of_empty h, execRet_of_empty (s := s.withFb f) h⟩
  · exact ⟨_, f, execRet_of_pos h, execRet_of_pos (s := s.withFb f) h⟩

/-- CALL looks at SP. -/
theorem execCall_agreeButFb (nnn : BitVec 12) :
    AgreeButFb (execCall nnn s) (execCall nnn (s.withFb f)) := by
  by_cases h : s.sp.val < 16
  · exact ⟨_, f, execCall_of_lt nnn h, execCall_of_lt (s := s.withFb f) nnn h⟩
  · exact ⟨_, f, execCall_of_full nnn h, execCall_of_full (s := s.withFb f) nnn h⟩

/-! ## Every instruction -/

/-- Every instruction but DRW answers alike on states that differ in FB alone; CLS even forgets the
difference. -/
theorem exec_agreeButFb {i : Instr} (hi : ∀ x y n, i ≠ .drw x y n) :
    AgreeButFb (exec i s) (exec i (s.withFb f)) := by
  cases i with
  | drw x y n => exact absurd rfl (hi x y n)
  | cls => exact ⟨_, 0, rfl, rfl⟩
  | ret => exact execRet_agreeButFb s f
  | call nnn => exact execCall_agreeButFb s f nnn
  | seImm x kk => exact ⟨_, f, rfl, congrArg _ (s.skipIf_withFb f _)⟩
  | seReg x y => exact ⟨_, f, rfl, congrArg _ (s.skipIf_withFb f _)⟩
  | sneImm x kk => exact ⟨_, f, rfl, congrArg _ (s.skipIf_withFb f _)⟩
  | sneReg x y => exact ⟨_, f, rfl, congrArg _ (s.skipIf_withFb f _)⟩
  | addReg x y => exact ⟨_, f, rfl, congrArg _ (s.setResultFlag_withFb f _ _ _ _ _)⟩
  | subReg x y => exact ⟨_, f, rfl, congrArg _ (s.setResultFlag_withFb f _ _ _ _ _)⟩
  | subnReg x y => exact ⟨_, f, rfl, congrArg _ (s.setResultFlag_withFb f _ _ _ _ _)⟩
  | shr x => exact ⟨_, f, rfl, congrArg _ (s.setResultFlag_withFb f _ _ _ _ _)⟩
  | shl x => exact ⟨_, f, rfl, congrArg _ (s.setResultFlag_withFb f _ _ _ _ _)⟩
  | rnd x kk =>
    exact ⟨_, f, rfl, congrArg (fun u : State => Host.Outcome.next (u.setV x _)) (s.dropDraw_withFb f)⟩
  | skp x => exact execSkp_agreeButFb s f x
  | sknp x => exact execSknp_agreeButFb s f x
  | ldVxK x => exact execLdVxK_agreeButFb s f x
  | ldF x => exact execLdF_agreeButFb s f x
  | ldB x => exact storeBytes_agreeButFb s f _
  | ldMemVx x => exact storeBytes_agreeButFb s f _
  | ldVxMem x => exact ⟨_, f, rfl, congrArg _ (s.loadRegs_withFb f _)⟩
  | _ => exact ⟨_, f, rfl, rfl⟩

end

/-- Settles O33, by the case split over the instructions. -/
theorem onlyDrawReadsTheFramebuffer : Obligations.OnlyDrawReadsTheFramebuffer := by
  unfold Obligations.OnlyDrawReadsTheFramebuffer
  exact fun i s f hi => exec_agreeButFb s f hi

end Sys2Proof.Machine
end

section
/-! PROOFS. The scan of the dispatch table and the decoder (30_encoding.md R89, R90). All masks keep the
leading nibble, and within a class the rows but CLS and RET share one mask; so the matching rows are those
whose pattern is the opcode under that mask, and the decoder's split on the fields computes the same row. -/

namespace Sys2Proof

/-! ## The masked opcode, from its fields -/

/-- The opcode under mask 0xF000, from its class. -/
theorem and_F000_of_class {op : Word} {c : Nat} (hc : opBits op 12 4 = c) :
    op &&& 0xF000#16 = BitVec.ofNat 16 (c * 4096) := by
  rw [← hc, ← and_F000, BitVec.ofNat_toNat, BitVec.setWidth_eq]

/-- The opcode under mask 0xF00F, from its class and its low nibble. -/
theorem and_F00F_of_fields {op : Word} {c n : Nat} (hc : opBits op 12 4 = c) (hn : opBits op 0 4 = n) :
    op &&& 0xF00F#16 = BitVec.ofNat 16 (c * 4096 + n) := by
  rw [← hc, ← hn, ← and_F00F, BitVec.ofNat_toNat, BitVec.setWidth_eq]

/-- The opcode under mask 0xF0FF, from its class and its low byte. -/
theorem and_F0FF_of_fields {op : Word} {c n : Nat} (hc : opBits op 12 4 = c) (hn : opBits op 0 8 = n) :
    op &&& 0xF0FF#16 = BitVec.ofNat 16 (c * 4096 + n) := by
  rw [← hc, ← hn, ← and_F0FF, BitVec.ofNat_toNat, BitVec.setWidth_eq]

/-! ## The rows that match -/

/-- The opcode is one of the two fixed words CLS and RET. -/
def IsFixedWord (op : Word) : Prop := op = 0x00E0#16 ∨ op = 0x00EE#16

/-- The rows of the dispatch table with this mask and this pattern. -/
def rowsAt (mask pattern : Word) : List Row :=
  dispatchTable.filter fun r => r.mask == mask && r.pattern == pattern

/-- Every mask keeps the leading nibble. -/
theorem mask_keeps_class : ∀ r ∈ dispatchTable, r.mask &&& 0xF000#16 = 0xF000#16 := by decide

/-- The rows that fix the whole word are CLS and RET. -/
theorem isFixedWord_of_mask_FFFF :
    ∀ r ∈ dispatchTable, r.mask = 0xFFFF#16 → r.pattern = 0x00E0#16 ∨ r.pattern = 0x00EE#16 := by decide

/-- A row that matches has the opcode's leading nibble in its pattern. -/
theorem pattern_class_of_matches {r : Row} (hr : r ∈ dispatchTable) {op : Word} (h : r.matchesOp op = true) :
    r.pattern &&& 0xF000#16 = op &&& 0xF000#16 := by
  rw [← beq_iff_eq.1 h, BitVec.and_assoc, mask_keeps_class r hr]

/-- Where the rows of the opcode's class but CLS and RET have one mask, the matching rows are those whose
pattern is the opcode under that mask. -/
theorem matchesOf_of_class {op m c : Word} (hfix : ¬ IsFixedWord op) (hc : op &&& 0xF000#16 = c)
    (hm : ∀ r ∈ dispatchTable, r.pattern &&& 0xF000#16 = c → r.mask = m ∨ r.mask = 0xFFFF#16) :
    matchesOf op = (rowsAt m (op &&& m)).map (·.behaviour op) := by
  refine congrArg (List.map _) (List.filter_congr fun r hr => Bool.eq_iff_iff.2 ⟨fun h => ?_, fun h => ?_⟩)
  · obtain hmask | hmask := hm r hr ((pattern_class_of_matches hr h).trans hc)
    · rw [Row.matchesOp, hmask] at h
      simp [hmask, beq_iff_eq.1 h]
    · rw [Row.matchesOp, hmask, show op &&& 0xFFFF#16 = op from BitVec.and_allOnes] at h
      have hpat := isFixedWord_of_mask_FFFF r hr hmask
      rw [← beq_iff_eq.1 h] at hpat
      exact absurd hpat hfix
  · obtain ⟨hmask, hpat⟩ : r.mask = m ∧ r.pattern = op &&& m := by simpa using h
    simp [Row.matchesOp, hmask, hpat]

/-- A word that is the pattern of no row with this mask has no rows at it. -/
theorem rowsAt_eq_nil {m w : Word} (h : ∀ r ∈ dispatchTable, r.mask = m → r.pattern ≠ w) :
    rowsAt m w = [] :=
  List.filter_eq_nil_iff.2 fun r hr hrow => by
    obtain ⟨hmask, hpat⟩ : r.mask = m ∧ r.pattern = w := by simpa using hrow
    exact h r hr hmask hpat

/-- In a class that the leading nibble alone decides, the scan finds the row at it. -/
theorem matchesOf_of_plain {op : Word} (hfix : ¬ IsFixedWord op) {c : Nat} (hc : opBits op 12 4 = c)
    (hm : ∀ r ∈ dispatchTable, r.pattern &&& 0xF000#16 = BitVec.ofNat 16 (c * 4096) →
      r.mask = 0xF000#16 ∨ r.mask = 0xFFFF#16) :
    matchesOf op = (rowsAt 0xF000#16 (BitVec.ofNat 16 (c * 4096))).map (·.behaviour op) := by
  have hop := and_F000_of_class hc
  rw [matchesOf_of_class hfix hop hm, hop]

/-- In class 8 the scan finds the row that the low nibble decides. -/
theorem matchesOf_class8 {op : Word} (hfix : ¬ IsFixedWord op) (hc : opBits op 12 4 = 0x8) :
    matchesOf op = (decodeClass8 op).toOption.toList := by
  rw [matchesOf_of_class (m := 0xF00F#16) hfix (and_F000_of_class hc) (by decide),
    and_F00F_of_fields hc rfl, decodeClass8]
  have hn := opBits_lt op 0 4
  interval_cases opBits op 0 4 <;> rfl

/-- A low byte that no row of the opcode's class has in its pattern finds no row. -/
theorem rowsAt_lowByte_eq_nil {op : Word} {c : Nat} {bytes : List Nat} (hc : opBits op 12 4 = c)
    (hb : ∀ r ∈ dispatchTable, r.mask = 0xF0FF#16 → r.pattern.toNat / 4096 = c →
      r.pattern.toNat % 256 ∈ bytes)
    (hn : opBits op 0 8 ∉ bytes) : rowsAt 0xF0FF#16 (op &&& 0xF0FF#16) = [] :=
  rowsAt_eq_nil fun r hr hmask hpat => by
    have hval : r.pattern.toNat = c * 4096 + opBits op 0 8 := by rw [hpat, and_F0FF, hc]
    have hlt := opBits_lt op 0 8
    have hbyte := hb r hr hmask (by omega)
    rw [show r.pattern.toNat % 256 = opBits op 0 8 by omega] at hbyte
    exact hn hbyte

/-- In class E the scan finds the row that the low byte decides. -/
theorem matchesOf_classE {op : Word} (hfix : ¬ IsFixedWord op) (hc : opBits op 12 4 = 0xE) :
    matchesOf op = (decodeClassE op).toOption.toList := by
  rw [matchesOf_of_class (m := 0xF0FF#16) hfix (and_F000_of_class hc) (by decide), decodeClassE]
  split
  · next hn => rw [and_F0FF_of_fields hc hn]; rfl
  · next hn => rw [and_F0FF_of_fields hc hn]; rfl
  · rw [rowsAt_lowByte_eq_nil (bytes := [0x9E, 0xA1]) hc (by decide) (by simp_all)]; rfl

/-- In class F the scan finds the row that the low byte decides. -/
theorem matchesOf_classF {op : Word} (hfix : ¬ IsFixedWord op) (hc : opBits op 12 4 = 0xF) :
    matchesOf op = (decodeClassF op).toOption.toList := by
  rw [matchesOf_of_class (m := 0xF0FF#16) hfix (and_F000_of_class hc) (by decide), decodeClassF]
  split
  case h_10 =>
    rw [rowsAt_lowByte_eq_nil (bytes := [0x07, 0x0A, 0x15, 0x18, 0x1E, 0x29, 0x33, 0x55, 0x65]) hc
      (by decide) (by simp_all)]
    rfl
  all_goals next hn => rw [and_F0FF_of_fields hc hn]; rfl

/-- The matching entries of an opcode other than the two fixed words are what it decodes to, one
instruction or none (30_encoding.md R89, R90). -/
theorem matchesOf_eq {op : Word} (hfix : ¬ IsFixedWord op) :
    matchesOf op = (decode op).toOption.toList := by
  unfold decode
  split
  case h_1 hc =>
    obtain ⟨hcls, hret⟩ := not_or.1 hfix
    rw [decodeClass0, if_neg hcls, if_neg hret]
    exact matchesOf_of_plain hfix hc (by decide)
  case h_9 hc => exact matchesOf_class8 hfix hc
  case h_15 hc => exact matchesOf_classE hfix hc
  case h_16 =>
    have hc := opBits_lt op 12 4
    simp only [imp_false] at *
    exact matchesOf_classF hfix (by omega)
  all_goals next hc => exact matchesOf_of_plain hfix hc (by decide)

/-- CLS is matched by SYS's row and its own (30_encoding.md R86). -/
theorem matchesOf_cls : matchesOf 0x00E0#16 = [.sys 0x0E0#12, .cls] := rfl

/-- RET is matched by SYS's row and its own (30_encoding.md R86). -/
theorem matchesOf_ret : matchesOf 0x00EE#16 = [.sys 0x0EE#12, .ret] := rfl

/-- Settles O3: within a class the scan is the decoder's split on the fields. -/
theorem matchingEntriesAreTheDecodedInstruction : Obligations.MatchingEntriesAreTheDecodedInstruction := by
  unfold Obligations.MatchingEntriesAreTheDecodedInstruction
  refine fun op => ⟨?_, ?_, fun hcls hret => ?_⟩
  · rintro rfl
    exact ⟨matchesOf_cls, rfl⟩
  · rintro rfl
    exact ⟨matchesOf_ret, rfl⟩
  · have hscan := matchesOf_eq (not_or.2 ⟨hcls, hret⟩)
    cases hd : decode op with
    | ok i => exact .inl ⟨i, by rw [hscan, hd]; rfl, rfl⟩
    | error e => exact .inr ⟨e, by rw [hscan, hd]; rfl, rfl⟩

end Sys2Proof
end

section
/-! PROOFS. Decoding the encoded word of an instruction: the word matches the instruction's own row
(Sys2Proof/Laws/PerInstr.lean), and a well-formed instruction among the matching entries is the decoded
one (30_encoding.md R91). -/

namespace Sys2Proof

open Sys2Proof.Laws

/-- A well-formed instruction among the matching entries is what the opcode decodes to: the entries that
are not, SYS's at the words of CLS and RET, are not well-formed. -/
theorem decode_of_mem_matchesOf {op : Word} {i : Instr} (hw : WellFormed i = true) (h : i ∈ matchesOf op) :
    decode op = .ok i := by
  by_cases hfix : IsFixedWord op
  · obtain rfl | rfl := hfix
    · rw [matchesOf_cls] at h
      obtain rfl | rfl : i = .sys 0x0E0#12 ∨ i = .cls := by simpa using h
      · exact absurd hw (by decide)
      · rfl
    · rw [matchesOf_ret] at h
      obtain rfl | rfl : i = .sys 0x0EE#12 ∨ i = .ret := by simpa using h
      · exact absurd hw (by decide)
      · rfl
  · rw [matchesOf_eq hfix] at h
    cases hd : decode op with
    | ok j =>
      obtain rfl : i = j := by simpa [hd, Except.toOption, eq_comm] using h
      rfl
    | error e => simp [hd, Except.toOption] at h

/-- Every instruction's encoded word matches the instruction's row. -/
theorem encodedWord_statement (i : Instr) : EncodedWord.Statement i :=
  match i with
  | .sys nnn => EncodedWord.sys nnn
  | .cls => EncodedWord.cls
  | .ret => EncodedWord.ret
  | .jp nnn => EncodedWord.jp nnn
  | .call nnn => EncodedWord.call nnn
  | .seImm x kk => EncodedWord.seImm x kk
  | .seReg x y => EncodedWord.seReg x y
  | .sneImm x kk => EncodedWord.sneImm x kk
  | .sneReg x y => EncodedWord.sneReg x y
  | .ldImm x kk => EncodedWord.ldImm x kk
  | .addImm x kk => EncodedWord.addImm x kk
  | .ldReg x y => EncodedWord.ldReg x y
  | .orReg x y => EncodedWord.orReg x y
  | .andReg x y => EncodedWord.andReg x y
  | .xorReg x y => EncodedWord.xorReg x y
  | .addReg x y => EncodedWord.addReg x y
  | .subReg x y => EncodedWord.subReg x y
  | .subnReg x y => EncodedWord.subnReg x y
  | .shr x => EncodedWord.shr x
  | .shl x => EncodedWord.shl x
  | .ldI nnn => EncodedWord.ldI nnn
  | .jpV0 nnn => EncodedWord.jpV0 nnn
  | .rnd x kk => EncodedWord.rnd x kk
  | .drw x y n => EncodedWord.drw x y n
  | .skp x => EncodedWord.skp x
  | .sknp x => EncodedWord.sknp x
  | .ldVxDt x => EncodedWord.ldVxDt x
  | .ldVxK x => EncodedWord.ldVxK x
  | .ldDtVx x => EncodedWord.ldDtVx x
  | .ldStVx x => EncodedWord.ldStVx x
  | .addI x => EncodedWord.addI x
  | .ldF x => EncodedWord.ldF x
  | .ldB x => EncodedWord.ldB x
  | .ldMemVx x => EncodedWord.ldMemVx x
  | .ldVxMem x => EncodedWord.ldVxMem x

/-- An instruction is among the matching entries of its encoded word. -/
theorem mem_matchesOf_encode {i : Instr} (hw : WellFormed i = true) : i ∈ matchesOf (encode i) := by
  obtain ⟨r, hr, hm, hb⟩ := encodedWord_statement i hw
  exact List.mem_map.2 ⟨r, List.mem_filter.2 ⟨hr, hm⟩, hb⟩

/-- Settles O1: the instruction is a well-formed one among the matching entries of its encoded word. -/
theorem decodeOfEncodeIsTheInstruction : Obligations.DecodeOfEncodeIsTheInstruction := by
  unfold Obligations.DecodeOfEncodeIsTheInstruction
  exact fun i hw => decode_of_mem_matchesOf hw (mem_matchesOf_encode hw)

end Sys2Proof
end

section
/-! PROOFS. Encoding what an opcode decodes to: each form of word put together from an opcode's own fields
is the opcode, with the bits of a field written 0 masked away (30_encoding.md R81, R83). -/

namespace Sys2Proof

open Sys2Proof.Machine

/-- Mask 0xFFF0 keeps op[15:4]. -/
theorem and_FFF0 (op : Word) : (op &&& 0xFFF0#16).toNat = op.toNat / 16 * 16 := by
  have h : op &&& 0xFFF0#16 = (op >>> 4) <<< 4 :=
    BitVec.eq_of_getLsbD_eq fun i hi => by interval_cases i <;> simp
  have hop := op.isLt
  rw [h]
  simp [Nat.shiftRight_eq_div_pow, Nat.shiftLeft_eq]
  omega

/-- Mask 0xFF0F keeps op[15:8] and op[3:0]. -/
theorem and_FF0F (op : Word) : (op &&& 0xFF0F#16).toNat = op.toNat / 256 * 256 + opBits op 0 4 := by
  have hsum : op &&& 0xFF0F#16 = (op &&& 0xFF00#16) + (op &&& 0x000F#16) :=
    and_add op 0xFF00#16 0x000F#16 rfl
  have hhigh : op &&& 0xFF00#16 = (op >>> 8) <<< 8 :=
    BitVec.eq_of_getLsbD_eq fun i hi => by interval_cases i <;> simp
  have hop := op.isLt
  have hlow := opBits_lt op 0 4
  rw [hsum, BitVec.toNat_add, and_000F, hhigh]
  simp [Nat.shiftRight_eq_div_pow, Nat.shiftLeft_eq]
  omega

/-! ## The forms of a word, from an opcode's fields -/

section
variable {op : Word} {c : Nat} (hc : opBits op 12 4 = c)
include hc

/-- The NNN form of an opcode's fields is the opcode. -/
theorem wordNNN_fields : wordNNN c (opNNN op) = op := by
  have hop := op.isLt
  apply BitVec.eq_of_toNat_eq
  simp [wordNNN, opNNN, opBits] at *
  omega

/-- The XKK form of an opcode's fields is the opcode. -/
theorem wordXKK_fields {k : Nat} (hk : opBits op 0 8 = k) : wordXKK c (opX op) k = op := by
  have hop := op.isLt
  apply BitVec.eq_of_toNat_eq
  simp [wordXKK, opX, opBits] at *
  omega

/-- The four nibbles of an opcode are the opcode. -/
theorem wordOfNibbles_fields {n : Nat} (hn : opBits op 0 4 = n) :
    wordOfNibbles c (opX op) (opY op) n = op := by
  have hop := op.isLt
  apply BitVec.eq_of_toNat_eq
  simp [wordOfNibbles, opX, opY, opBits] at *
  omega

/-- With the low nibble written 0, the bits of mask 0xFFF0 are kept. -/
theorem wordOfNibbles_zero_n : wordOfNibbles c (opX op) (opY op) 0 = op &&& 0xFFF0#16 := by
  have hop := op.isLt
  apply BitVec.eq_of_toNat_eq
  rw [and_FFF0]
  simp [wordOfNibbles, opX, opY, opBits] at *
  omega

/-- With Y written 0, the bits of mask 0xFF0F are kept. -/
theorem wordOfNibbles_zero_y {n : Nat} (hn : opBits op 0 4 = n) :
    wordOfNibbles c (opX op) 0 n = op &&& 0xFF0F#16 := by
  have hop := op.isLt
  apply BitVec.eq_of_toNat_eq
  rw [and_FF0F]
  simp [wordOfNibbles, opX, opBits] at *
  omega

end

/-! ## What each class decodes to -/

/-- The instruction is well-formed, and its word is the opcode with its ignored fields written 0. -/
def EncodesBack (op : Word) (i : Instr) : Prop := WellFormed i = true ∧ encode i = op &&& keptBits i

/-- An instruction that ignores no field, and whose word is the opcode. -/
theorem encodesBack_of_eq {op : Word} {i : Instr} (hw : WellFormed i = true) (hk : keptBits i = 0xFFFF#16)
    (he : encode i = op) : EncodesBack op i :=
  ⟨hw, by rw [hk, he]; exact BitVec.and_allOnes.symm⟩

section
variable {op : Word} {i : Instr}

/-- Class 0: a SYS that the decoder answers is not at one of the fixed words. -/
theorem encodesBack_class0 (hc : opBits op 12 4 = 0x0) : EncodesBack op (decodeClass0 op) := by
  have hword := wordNNN_fields hc
  unfold decodeClass0
  split
  · next h => subst h; exact encodesBack_of_eq rfl rfl rfl
  · next hcls =>
    split
    · next h => subst h; exact encodesBack_of_eq rfl rfl rfl
    · next hret =>
      refine encodesBack_of_eq ?_ rfl hword
      have hcls' : opNNN op ≠ 0x0E0#12 := fun h => hcls (by rw [← hword, h]; rfl)
      have hret' : opNNN op ≠ 0x0EE#12 := fun h => hret (by rw [← hword, h]; rfl)
      simp [WellFormed, hcls', hret']

/-- Class 8: the shifts ignore Y. -/
theorem encodesBack_class8 (hc : opBits op 12 4 = 0x8) (h : decodeClass8 op = .ok i) : EncodesBack op i := by
  unfold decodeClass8 at h
  split at h
  case h_7 hn | h_9 hn => cases h; exact ⟨rfl, wordOfNibbles_zero_y hc hn⟩
  case h_10 => cases h
  all_goals next hn => cases h; exact encodesBack_of_eq rfl rfl (wordOfNibbles_fields hc hn)

/-- Class E ignores no field. -/
theorem encodesBack_classE (hc : opBits op 12 4 = 0xE) (h : decodeClassE op = .ok i) : EncodesBack op i := by
  unfold decodeClassE at h
  split at h
  case h_3 => cases h
  all_goals next hk => cases h; exact encodesBack_of_eq rfl rfl (wordXKK_fields hc hk)

/-- Class F ignores no field. -/
theorem encodesBack_classF (hc : opBits op 12 4 = 0xF) (h : decodeClassF op = .ok i) : EncodesBack op i := by
  unfold decodeClassF at h
  split at h
  case h_10 => cases h
  all_goals next hk => cases h; exact encodesBack_of_eq rfl rfl (wordXKK_fields hc hk)

/-- Every class: 5xy0 and 9xy0 ignore the low nibble. -/
theorem encodesBack_of_decode (h : decode op = .ok i) : EncodesBack op i := by
  have hkk : opBits op 0 8 = (opKK op).toNat := by simp [opKK, opBits]
  have hn : opBits op 0 4 = (opN op).toNat := by simp [opN, opBits]
  unfold decode at h
  split at h
  case h_1 hc => cases h; exact encodesBack_class0 hc
  case h_9 hc => exact encodesBack_class8 hc h
  case h_15 hc => exact encodesBack_classE hc h
  case h_16 =>
    have hc := opBits_lt op 12 4
    simp only [imp_false] at *
    exact encodesBack_classF (by omega) h
  case h_6 hc | h_10 hc => cases h; exact ⟨rfl, wordOfNibbles_zero_n hc⟩
  case h_14 hc => cases h; exact encodesBack_of_eq rfl rfl (wordOfNibbles_fields hc hn)
  case h_2 hc | h_3 hc | h_11 hc | h_12 hc =>
    cases h; exact encodesBack_of_eq rfl rfl (wordNNN_fields hc)
  all_goals next hc => cases h; exact encodesBack_of_eq rfl rfl (wordXKK_fields hc hkk)

end

/-- Settles O2, class by class. -/
theorem encodeOfDecodeZeroesIgnoredFields : Obligations.EncodeOfDecodeZeroesIgnoredFields := by
  unfold Obligations.EncodeOfDecodeZeroesIgnoredFields
  exact fun op i h => encodesBack_of_decode h

end Sys2Proof
end

section
/-! PROOFS. Words written out from the encodings of 30_encoding.md R84. -/

namespace Sys2Proof

/-- The host's question is the decoder's answer on the word: reading it back from its two bytes changes
nothing (20_memory.md R55). -/
theorem decodeTableWord_eq (w : Nat) : decodeTableWord 16 w = (decode (BitVec.ofNat 16 w)).toOption := by
  have hword : tableOpcode 16 w = BitVec.ofNat 16 w := by
    apply BitVec.eq_of_toNat_eq
    simp [tableOpcode]
  rw [decodeTableWord, opcodeOfBytes_high_low, hword]
  cases decode (BitVec.ofNat 16 w) <;> rfl

/-- Settles O6: each word is decoded by its fields. -/
theorem sampleWordsDecode : Obligations.SampleWordsDecode := by
  unfold Obligations.SampleWordsDecode
  simp only [decodeTableWord_eq]
  exact ⟨rfl, rfl, rfl, rfl, rfl, rfl, rfl⟩

end Sys2Proof
end

section
/-! PROOFS. The cycle (40_cycle.md R109 to R117): FETCH at pc, the scan of the table beside the decoded
instruction, and what RENDER, TICK and POLL do to the state EXECUTE left. -/

namespace Sys2Proof.Machine

/-! ## FETCH and EXECUTE -/

/-- Settles O8, from the two bytes of an opcode and the two cases of a running step. -/
theorem fetchReadsBigEndianOrFaults : Obligations.FetchReadsBigEndianOrFaults := by
  unfold Obligations.FetchReadsBigEndianOrFaults
  intro s hrun
  refine ⟨fun hpc => ⟨opcodeOfBytes_toNat _ _, step_of_fetch hrun hpc⟩, fun hpc => ?_⟩
  rw [step_of_fetchFault hrun hpc]
  rfl

/-- The cycle of an opcode that decodes runs that instruction (40_cycle.md R112). -/
theorem runOpcode_of_decode {op : Word} {i : Instr} (h : decode op = .ok i) (s : State) :
    runOpcode op s = afterExecute (exec i s) := by
  rw [runOpcode, h]

/-- The cycle of an unmatched opcode runs no behaviour (40_cycle.md R113). -/
theorem runOpcode_of_decode_error {op : Word} {e : Unmatched} (h : decode op = .error e) (s : State) :
    runOpcode op s = afterExecute (.next s) := by
  rw [runOpcode, h]

/-- Settles O7, with the state EXECUTE sees as the pre-advanced one. -/
theorem stepRunsTheDecodedInstruction : Obligations.StepRunsTheDecodedInstruction := by
  unfold Obligations.StepRunsTheDecodedInstruction
  intro s i hrun hpc hdecode
  have hstep : step s = afterExecute (exec i s.beginCycle) :=
    (step_of_fetch hrun hpc).trans (runOpcode_of_decode hdecode _)
  refine ⟨s.beginCycle, wrapAddr_toNat _, rfl, fun t ht hnot => ?_, fun t ht hfaulted => ?_⟩
  · rw [hstep, ht, afterExecute_next, if_neg hnot]
  · rw [hstep, ht, afterExecute_next, if_pos hfaulted]

/-! ## The scan of the table -/

/-- A scan with one matching entry is that entry's behaviour, a fault included. -/
theorem runInOrder_singleton (i : Instr) (s : State) : runInOrder [i] s = exec i s := by
  obtain ⟨t, ht, -⟩ := exec_effect i s
  simp [runInOrder, ht]

/-- SYS leaves a running state to the entries after it (41_control.md R130). -/
theorem runInOrder_sys (nnn : BitVec 12) (rest : List Instr) {s : State} (hrun : s.run = .running) :
    runInOrder (.sys nnn :: rest) s = runInOrder rest s := by
  have hexec : exec (.sys nnn) s = .next s := rfl
  simp [runInOrder, hexec, hrun]

/-- The scan in table order is a scan of the decoded instruction alone: SYS, which the words of CLS and RET
match as well, changes nothing (30_encoding.md R86). -/
theorem runInOrder_matchesOf (op : Word) {s : State} (hrun : s.run = .running) :
    runInOrder (matchesOf op) s = runInOrder (decode op).toOption.toList s := by
  by_cases hfix : IsFixedWord op
  · obtain rfl | rfl := hfix
    · rw [matchesOf_cls]
      exact runInOrder_sys _ [.cls] hrun
    · rw [matchesOf_ret]
      exact runInOrder_sys _ [.ret] hrun
  · rw [matchesOf_eq hfix]

/-- Settles O4: the scan is that of the decoded instruction, which is EXECUTE's. -/
theorem scanOfTheTableRunsTheDecodedInstruction : Obligations.ScanOfTheTableRunsTheDecodedInstruction := by
  unfold Obligations.ScanOfTheTableRunsTheDecodedInstruction
  intro op s hrun
  have hok : ∀ i, decode op = .ok i → runInOrder (matchesOf op) s = exec i s := fun i hd => by
    rw [runInOrder_matchesOf op hrun, hd]
    exact runInOrder_singleton i s
  have herror : ∀ e, decode op = .error e → runInOrder (matchesOf op) s = .next s := fun e hd => by
    rw [runInOrder_matchesOf op hrun, hd]
    rfl
  refine ⟨hok, herror, ?_⟩
  cases hd : decode op with
  | ok i => rw [runOpcode_of_decode hd, hok i hd]
  | error e => rw [runOpcode_of_decode_error hd, herror e hd]

/-! ## RENDER, TICK and POLL -/

/-- RENDER hands over the framebuffer when REDRAW is set (40_cycle.md R116). -/
theorem State.render_of_redraw {s : State} (h : s.redraw = true) :
    s.render = { s with renderOut := some s.fb, redraw := false } := if_pos h

/-- RENDER does nothing when REDRAW is not set (40_cycle.md R116). -/
theorem State.render_of_no_redraw {s : State} (h : s.redraw = false) : s.render = s := by
  simp [State.render, h]

/-- REDRAW is not set after RENDER. -/
theorem State.render_redraw (s : State) : s.render.redraw = false := by
  cases h : s.redraw with
  | true => rw [State.render_of_redraw h]
  | false => rw [State.render_of_no_redraw h, h]

/-- A timer that runs loses exactly one in a tick (40_cycle.md R117). -/
theorem tickDown_succ {t : Byte} (h : t ≠ 0) : (tickDown t).toNat + 1 = t.toNat := by
  have : t.toNat ≠ 0 := fun h0 => h (BitVec.eq_of_toNat_eq h0)
  rw [tickDown_toNat]
  omega

/-- The strobe's test is that the tick makes a running timer 0 (40_cycle.md R117). -/
theorem eq_one_iff_tickDown (t : Byte) : t = 1 ↔ t ≠ 0 ∧ tickDown t = 0 := by
  have h0 : (0 : Byte).toNat = 0 := rfl
  have h1 : (1 : Byte).toNat = 1 := rfl
  rw [ne_eq, ← BitVec.toNat_inj, ← BitVec.toNat_inj, ← BitVec.toNat_inj, tickDown_toNat, h0, h1]
  omega

/-- A poll that the host's list answers delivers its first entry and takes it off (40_cycle.md R118). -/
theorem State.poll_of_keyInput {s : State} {ks : Keys} {rest : List Keys} (h : s.keyInput = ks :: rest) :
    s.poll = { s with key := ks, keyInput := rest } := by
  simp [State.poll, State.dropKeys, State.nextKeys, h]

/-- The fields that POLL writes. -/
theorem State.poll_frame (s : State) :
    s.poll = { s with key := s.poll.key, keyInput := s.poll.keyInput, pollCount := s.poll.pollCount } := by
  unfold State.poll State.dropKeys
  split <;> rfl

/-- The fields that RENDER, TICK and POLL write. -/
theorem State.finishCycle_frame (s : State) :
    s.finishCycle = { s with
      redraw := s.finishCycle.redraw, renderOut := s.finishCycle.renderOut
      dt := s.finishCycle.dt, st := s.finishCycle.st, audioOut := s.finishCycle.audioOut
      key := s.finishCycle.key, keyInput := s.finishCycle.keyInput
      pollCount := s.finishCycle.pollCount } :=
  s.render.tick.poll_frame.trans (by simp [State.finishCycle])

/-- Settles O9, one step of the rest of the cycle after the other. -/
theorem cycleEndsWithRenderTickPoll : Obligations.CycleEndsWithRenderTickPoll := by
  unfold Obligations.CycleEndsWithRenderTickPoll
  intro s hrun
  have hdt : s.finishCycle.dt = tickDown s.dt := by simp [State.finishCycle]
  have hst : s.finishCycle.st = tickDown s.st := by simp [State.finishCycle]
  have haudio : s.finishCycle.audioOut = (s.st == 1) := by simp [State.finishCycle]
  have hout : s.finishCycle.renderOut = s.render.renderOut := by simp [State.finishCycle]
  refine ⟨s.finishCycle, ?_, ?_, fun h => ?_, fun h => ?_, fun h => ?_, fun h => ?_, fun h => ?_, fun h => ?_,
    ?_, fun ks rest h => ?_, s.finishCycle_frame⟩
  · rw [afterExecute_next, if_neg hrun]
  · simp [State.finishCycle, State.render_redraw]
  · rw [hout, State.render_of_redraw h]
  · rw [hout, State.render_of_no_redraw h]
  · rw [hdt, tickDown_succ h]
  · rw [hdt, h]
    rfl
  · rw [hst, tickDown_succ h]
  · rw [hst, h]
    rfl
  · rw [haudio, hst, beq_iff_eq, eq_one_iff_tickDown]
  · have hkeys : s.render.tick.keyInput = ks :: rest := by simp [h]
    rw [State.finishCycle, State.poll_of_keyInput hkeys]
    simp

end Sys2Proof.Machine
end

section
/-! PROOFS. What the statements of the instructions share: the entry of the dispatch table an instruction
has (30_encoding.md R84), the shapes of a fault and of a written pc, and the cycle of an instruction that
does not fault. -/

namespace Sys2Proof.Machine

/-- The table's entry n, when its behaviour answers well-formed instructions only, is what every opcode that
matches it decodes to (30_encoding.md R89, R90). -/
theorem encodedAs_of_entry {n : Nat} {mask pattern : Word} {f : Word → Instr}
    (hentry : dispatchTable[n - 1]? = some ⟨mask, pattern, f⟩) (hw : ∀ op, WellFormed (f op) = true) :
    EncodedAs n mask pattern f := by
  refine ⟨⟨_, hentry, rfl, rfl, fun op => rfl⟩, fun op hop => ?_⟩
  have hmem : ⟨mask, pattern, f⟩ ∈ dispatchTable.filter (·.matchesOp op) :=
    List.mem_filter.2 ⟨List.mem_of_getElem? hentry, beq_iff_eq.2 hop⟩
  exact decode_of_mem_matchesOf (hw op) (List.mem_map_of_mem hmem)

/-- The address of the opcode is the pc that EXECUTE sees less 2, modulo 4096 (40_cycle.md R111). -/
theorem State.opAddr_toNat (s : State) : s.opAddr.toNat = (s.pc.toNat + 4094) % 4096 := by
  have htwo : (2 : Word).toNat = 2 := rfl
  rw [State.opAddr, wrapAddr_toNat, BitVec.toNat_sub, htwo]
  omega

/-- A raised fault has the shape of a fault (40_cycle.md R121). -/
theorem takesFault_raise (k : FaultKind) (s : State) : TakesFault (raise k s) s k :=
  ⟨_, raise_eq k s, rfl, rfl, s.opAddr_toNat, rfl, rfl⟩

/-- A jump sets pc and nothing else. -/
theorem setsPc_jump (s : State) {a : Word} {n : Nat} (h : a.toNat = n) : SetsPc (.next (s.jump a)) s n :=
  ⟨_, rfl, h, rfl⟩

/-- A conditional skip sets pc to the next opcode's address but one when its condition holds, and to what it
was otherwise (40_cycle.md R115). -/
theorem setsPc_skipIf (s : State) {c : Bool} {p : Prop} [Decidable p] (h : c = true ↔ p) :
    SetsPc (.next (s.skipIf c)) s (if p then (s.pc.toNat + 2) % 4096 else s.pc.toNat) :=
  ⟨_, rfl, by simp only [State.skipIf_pc, h], s.skipIf_frame c⟩

/-- The cycle of an instruction that does not fault is its effect on the pre-advanced state, then the rest
of the cycle (40_cycle.md R109). -/
theorem step_of_exec {s t : State} {i : Instr} (hrun : s.run = .running) (hpc : s.pc.toNat ≤ 0xFFE)
    (hdecode : decode s.fetchOp = .ok i) (hexec : exec i s.beginCycle = .next t) (ht : t.run ≠ .faulted) :
    step s = .next t.finishCycle := by
  rw [step_of_fetch hrun hpc, runOpcode_of_decode hdecode, hexec, afterExecute_next, if_neg ht]

/-! ## What the rest of the cycle leaves in a field -/

@[simp] theorem State.finishCycle_v (s : State) : s.finishCycle.v = s.v := by simp [State.finishCycle]
@[simp] theorem State.finishCycle_pc (s : State) : s.finishCycle.pc = s.pc := by simp [State.finishCycle]
@[simp] theorem State.finishCycle_mem (s : State) : s.finishCycle.mem = s.mem := by simp [State.finishCycle]
@[simp] theorem State.finishCycle_run (s : State) : s.finishCycle.run = s.run := by simp [State.finishCycle]
@[simp] theorem State.finishCycle_dt (s : State) : s.finishCycle.dt = tickDown s.dt := by
  simp [State.finishCycle]
@[simp] theorem State.finishCycle_st (s : State) : s.finishCycle.st = tickDown s.st := by
  simp [State.finishCycle]

/-- The opcode at pc is decided by pc and memory (40_cycle.md R110). -/
theorem State.fetchOp_congr {s t : State} (hpc : t.pc = s.pc) (hmem : t.mem = s.mem) :
    t.fetchOp = s.fetchOp := by
  simp only [State.fetchOp, State.memRead, hpc, hmem]

end Sys2Proof.Machine
end

section
/-! PROOFS. The control-flow instructions (41_control.md R130 to R138). -/

namespace Sys2Proof.Machine

/-! ## SYS -/

/-- Every opcode of class 0 but the two fixed words is a SYS (30_encoding.md R86). -/
theorem decode_of_sys {op : Word} (hclass : op &&& 0xF000#16 = 0x0000#16) (hcls : op ≠ 0x00E0#16)
    (hret : op ≠ 0x00EE#16) : decode op = .ok (.sys (opNNN op)) := by
  have hc : opBits op 12 4 = 0 := class_of_F000 (by decide) hclass
  simp only [decode, hc, decodeClass0, if_neg hcls, if_neg hret]

/-- Settles O19: SYS leaves the state EXECUTE sees to the rest of the cycle. -/
theorem sysIsANoOp : Obligations.SysIsANoOp := by
  unfold Obligations.SysIsANoOp
  refine ⟨fun nnn s => ⟨s, rfl, rfl⟩, ⟨_, rfl, rfl, rfl, fun op => rfl⟩, fun op => decode_of_sys,
    matchesOf_cls, matchesOf_ret, fun nnn s hrun hpc hdecode => ⟨s.beginCycle, wrapAddr_toNat _, rfl, ?_⟩⟩
  exact step_of_exec hrun hpc hdecode rfl (by simp [hrun])

/-! ## The jumps -/

/-- JP sets pc to NNN (41_control.md R132). -/
theorem exec_jp (nnn : BitVec 12) (s : State) : exec (.jp nnn) s = .next (s.jump (addrOf nnn)) := rfl

/-- Bnnn sets pc to V[0] + NNN (41_control.md R138). -/
theorem exec_jpV0 (nnn : BitVec 12) (s : State) :
    exec (.jpV0 nnn) s = .next (s.jump (BitVec.ofNat 16 ((s.getV 0).toNat + nnn.toNat))) := rfl

/-- A running machine whose pc is above 0xFFE faults in its next step, at that pc (40_cycle.md R110). -/
theorem step_faults_of_pc {s : State} (hrun : s.run = .running) (hpc : 0xFFE < s.pc.toNat) :
    ∃ u, step s = .next u ∧ u.run = .faulted ∧ u.fault = some .fetchOutOfRange ∧ u.faultPc = s.pc :=
  ⟨_, step_of_fetchFault hrun hpc, rfl, rfl, rfl⟩

/-- Settles O21: the rest of the cycle leaves pc at the target, so the next FETCH is there. -/
theorem jumpSetsPcToItsTarget : Obligations.JumpSetsPcToItsTarget := by
  unfold Obligations.JumpSetsPcToItsTarget
  refine ⟨encodedAs_of_entry rfl fun _ => rfl, fun nnn s => setsPc_jump s (addrOf_toNat nnn),
    fun nnn s hrun hpc hdecode => ?_⟩
  have hstep := step_of_exec hrun hpc hdecode (exec_jp nnn _) (by simp [hrun])
  generalize ht : (s.beginCycle.jump (addrOf nnn)).finishCycle = t at hstep
  have htrun : t.run = .running := by simp [← ht, hrun]
  have htpc : t.pc.toNat = nnn.toNat := by simp [← ht]
  have htmem : t.mem = s.mem := by simp [← ht]
  refine ⟨t, hstep, htrun, htpc, by simp [← ht], htmem, by simp [← ht], by simp [← ht], fun hself => ?_,
    fun htarget => step_faults_of_pc htrun (by omega)⟩
  have hpcSame : t.pc = s.pc := BitVec.eq_of_toNat_eq (htpc.trans hself)
  exact ⟨hpcSame, State.fetchOp_congr hpcSame htmem⟩

/-- Settles O25: the sum does not wrap. -/
theorem indexedJumpAddsV0 : Obligations.IndexedJumpAddsV0 := by
  unfold Obligations.IndexedJumpAddsV0
  refine ⟨encodedAs_of_entry rfl fun _ => rfl, fun nnn s => setsPc_jump s (jpV0Target_toNat s nnn),
    fun nnn s t hexec hrun htarget => ?_⟩
  cases (exec_jpV0 nnn s).symm.trans hexec
  have hpc := htarget.trans_eq (jpV0Target_toNat s nnn).symm
  obtain ⟨u, hstep, hfaulted, hfault, -⟩ := step_faults_of_pc hrun hpc
  exact ⟨u, hstep, hfaulted, hfault⟩

/-! ## CALL and RET -/

/-- RET with k + 1 entries in use takes pc from entry k and leaves k in use (41_control.md R131). -/
theorem exec_ret_of_sp {s : State} {k : Fin 16} (h : s.sp.val = k.val + 1) :
    exec .ret s = .next { s with sp := k.castSucc, pc := s.stack[k] } := by
  refine (execRet_of_pos (by omega)).trans ?_
  simp [h, Fin.ext_iff]

/-- CALL with k < 16 entries in use writes entry k and leaves k + 1 in use (41_control.md R133). -/
theorem exec_call_of_sp {s : State} {k : Fin 16} (nnn : BitVec 12) (h : s.sp.val = k.val) :
    exec (.call nnn) s =
      .next { s with stack := s.stack.set k s.pc, sp := k.succ, pc := addrOf nnn } := by
  refine (execCall_of_lt nnn (by omega)).trans ?_
  simp [h, Fin.ext_iff]

/-- Settles O20: SP is 0, or one above the entry popped. -/
theorem retPopsOrUnderflows : Obligations.RetPopsOrUnderflows := by
  unfold Obligations.RetPopsOrUnderflows
  refine ⟨encodedAs_of_entry rfl fun _ => rfl, fun s k hsp => ⟨_, exec_ret_of_sp hsp, rfl, rfl, rfl⟩,
    fun s hsp => ?_⟩
  rw [show exec .ret s = raise .stackUnderflow s from execRet_of_empty hsp]
  exact takesFault_raise .stackUnderflow s

/-- Settles O22: SP is 16, or names the entry pushed. -/
theorem callPushesOrOverflows : Obligations.CallPushesOrOverflows := by
  unfold Obligations.CallPushesOrOverflows
  refine ⟨encodedAs_of_entry rfl fun _ => rfl, fun nnn s k hsp => ?_, fun nnn s hsp => ?_⟩
  · refine ⟨_, exec_call_of_sp nnn hsp, by simp, fun j hj => ?_, rfl, addrOf_toNat nnn, rfl⟩
    exact Vector.getElem_set_ne k.isLt j.isLt (fun hkj => hj (Fin.ext hkj.symm))
  · rw [show exec (.call nnn) s = raise .stackOverflow s from execCall_of_full nnn (by omega)]
    exact takesFault_raise .stackOverflow s

/-- Settles O23: the entry RET pops is the one CALL pushed. -/
theorem retAfterCallRestoresPc : Obligations.RetAfterCallRestoresPc := by
  unfold Obligations.RetAfterCallRestoresPc
  intro nnn s t u hsp hcall hstack husp
  obtain ⟨k, hk⟩ : ∃ k : Fin 16, s.sp.val = k.val := ⟨⟨s.sp.val, hsp⟩, rfl⟩
  cases (exec_call_of_sp nnn hk).symm.trans hcall
  exact ⟨_, exec_ret_of_sp (congrArg Fin.val husp), by simp [hstack], Fin.ext hk.symm⟩

/-! ## The skips -/

/-- Settles O24: each skip's condition is the comparison of the two values. -/
theorem comparisonSkipsAddTwo : Obligations.ComparisonSkipsAddTwo := by
  unfold Obligations.ComparisonSkipsAddTwo
  refine ⟨encodedAs_of_entry rfl fun _ => rfl, encodedAs_of_entry rfl fun _ => rfl,
    encodedAs_of_entry rfl fun _ => rfl, encodedAs_of_entry rfl fun _ => rfl, fun x y kk s => ?_⟩
  have hse : ∀ a b : Byte, (a == b) = true ↔ a.toNat = b.toNat := fun a b =>
    beq_iff_eq.trans BitVec.toNat_inj.symm
  have hsne : ∀ a b : Byte, (a != b) = true ↔ a.toNat ≠ b.toNat := fun a b =>
    bne_iff_ne.trans BitVec.toNat_inj.not.symm
  exact ⟨setsPc_skipIf s (hse _ _), setsPc_skipIf s (hse _ _), setsPc_skipIf s (hsne _ _),
    setsPc_skipIf s (hsne _ _)⟩

end Sys2Proof.Machine
end

section
/-! PROOFS. The register and ALU instructions (42_alu.md R160 to R171, R173). -/

namespace Sys2Proof.Machine

/-! ## One register written -/

/-- The write of a byte to V[x] has the shape of a written register. -/
theorem writesReg_setV (s : State) (x : RegIx) {b : Byte} {n : Nat} (h : b.toNat = n) :
    WritesReg (.next (s.setV x b)) s x n :=
  ⟨_, rfl, by rw [State.getV_setV_same, h], fun j hj => by rw [State.getV_setV, if_neg hj], rfl⟩

/-- Settles O26: each of the six writes one byte to V[X], whose value is that of the operation on naturals. -/
theorem loadsAndLogicWriteOneRegister : Obligations.LoadsAndLogicWriteOneRegister := by
  unfold Obligations.LoadsAndLogicWriteOneRegister
  refine ⟨encodedAs_of_entry rfl fun _ => rfl, encodedAs_of_entry rfl fun _ => rfl,
    encodedAs_of_entry rfl fun _ => rfl, encodedAs_of_entry rfl fun _ => rfl,
    encodedAs_of_entry rfl fun _ => rfl, encodedAs_of_entry rfl fun _ => rfl, fun x y kk s => ?_⟩
  exact ⟨writesReg_setV s x rfl, writesReg_setV s x (BitVec.toNat_add _ _), writesReg_setV s x rfl,
    writesReg_setV s x (BitVec.toNat_or _ _), writesReg_setV s x (BitVec.toNat_and _ _),
    writesReg_setV s x (BitVec.toNat_xor _ _)⟩

/-! ## A result with its flag -/

/-- The write of a result with its flag has the shape of one, whatever VF_DEST_ORDER is (42_alu.md R173). -/
theorem writesResultAndFlag_setResultFlag (s : State) (x : RegIx) {r f l : Byte} {result flag listed : Nat}
    (hr : r.toNat = result) (hf : f.toNat = flag) (hl : l.toNat = listed) :
    WritesResultAndFlag (.next (s.setResultFlag vfDestOrder x r f l)) s x result flag listed := by
  have hvf (hx : x = vf) :
      (s.setResultFlag vfDestOrder x r f l).getV vf = vfAsDest Config.vfDestOrder r f l := by
    rw [State.getV_setResultFlag, if_pos hx, if_pos rfl, vfDestOrder]
  refine ⟨_, rfl, fun hx => ⟨?_, ?_⟩, fun hx ho => ?_, fun hx ho => ?_, fun hx ho => ?_,
    fun j hjx hjvf => ?_, s.setResultFlag_frame vfDestOrder x r f l⟩
  · rw [State.getV_setResultFlag, if_neg hx, if_neg hx, if_pos rfl, hr]
  · rw [State.getV_setResultFlag, if_neg hx, if_pos rfl, hf]
  · rw [hvf hx, ho, vfAsDest, hf]
  · rw [hvf hx, ho, vfAsDest, hr]
  · rw [hvf hx, ho, vfAsDest, hl]
  · simp [State.getV_setResultFlag, hjx, hjvf]

/-- `bool(c)` as a number (00_scope.md R11). -/
theorem boolByte_decide_toNat (p : Prop) [Decidable p] : (boolByte (decide p)).toNat = if p then 1 else 0 := by
  by_cases hp : p <;> simp [boolByte, hp]

/-- The carry as a number (42_alu.md R166). -/
theorem carryFlag_toNat (a b : Byte) : (carryFlag a b).toNat = if 255 < a.toNat + b.toNat then 1 else 0 :=
  boolByte_decide_toNat _

/-- The strict not-borrow as a number (42_alu.md R167, R168). -/
theorem notBorrowFlag_toNat (a b : Byte) : (notBorrowFlag a b).toNat = if b.toNat < a.toNat then 1 else 0 :=
  boolByte_decide_toNat _

/-- The difference of two bytes, modulo 256. -/
theorem byte_sub_toNat (a b : Byte) : (a - b).toNat = (256 + a.toNat - b.toNat) % 256 := by
  rw [BitVec.toNat_sub]
  omega

/-- Settles O27: AS_LISTED writes the flag last, so it leaves the flag, as FLAG_LAST does. -/
theorem addAndSubtractWriteResultAndFlag : Obligations.AddAndSubtractWriteResultAndFlag := by
  unfold Obligations.AddAndSubtractWriteResultAndFlag
  refine ⟨encodedAs_of_entry rfl fun _ => rfl, encodedAs_of_entry rfl fun _ => rfl,
    encodedAs_of_entry rfl fun _ => rfl, ?_⟩
  rintro x y s a b rfl rfl
  have hcarry := carryFlag_toNat (s.getV x) (s.getV y)
  have hsub := notBorrowFlag_toNat (s.getV x) (s.getV y)
  have hsubn := notBorrowFlag_toNat (s.getV y) (s.getV x)
  exact ⟨writesResultAndFlag_setResultFlag s x (BitVec.toNat_add _ _) hcarry hcarry,
    writesResultAndFlag_setResultFlag s x (byte_sub_toNat _ _) hsub hsub,
    writesResultAndFlag_setResultFlag s x (byte_sub_toNat _ _) hsubn hsubn⟩

/-! ## The shifts -/

/-- A right shift by one halves. -/
theorem byte_shiftRight_one_toNat (a : Byte) : (a >>> 1).toNat = a.toNat / 2 := by
  rw [BitVec.toNat_ushiftRight, Nat.shiftRight_one]

/-- A left shift by one doubles, modulo 256. -/
theorem byte_shiftLeft_one_toNat (a : Byte) : (a <<< 1).toNat = a.toNat * 2 % 256 := by
  rw [BitVec.toNat_shiftLeft, Nat.shiftLeft_eq, pow_one]

/-- The bit SHR shifts out as a number (42_alu.md R169). -/
theorem shiftedOutLow_toNat (a : Byte) : (shiftedOutLow a).toNat = a.toNat % 2 := by
  rw [shiftedOutLow, BitVec.toNat_and]
  exact Nat.and_one_is_mod _

/-- The bit SHL shifts out as a number (42_alu.md R170). -/
theorem shiftedOutHigh_toNat (a : Byte) : (shiftedOutHigh a).toNat = a.toNat / 128 := by
  have hand : (shiftedOutHigh a).toNat = (a >>> 7).toNat % 2 := shiftedOutLow_toNat (a >>> 7)
  rw [hand, BitVec.toNat_ushiftRight, Nat.shiftRight_eq_div_pow]
  omega

/-- Settles O28: AS_LISTED shifts the flag, which is 0 or 1, once more: to 0, or to twice the flag. -/
theorem shiftsWriteResultAndShiftedBit : Obligations.ShiftsWriteResultAndShiftedBit := by
  unfold Obligations.ShiftsWriteResultAndShiftedBit
  refine ⟨encodedAs_of_entry rfl fun _ => rfl, encodedAs_of_entry rfl fun _ => rfl, ?_⟩
  rintro x s a rfl
  have hlow : (shiftedOutLow (s.getV x) >>> 1).toNat = 0 := by
    rw [byte_shiftRight_one_toNat, shiftedOutLow_toNat]
    omega
  have hhigh : (shiftedOutHigh (s.getV x) <<< 1).toNat = 2 * ((s.getV x).toNat / 128) := by
    rw [byte_shiftLeft_one_toNat, shiftedOutHigh_toNat]
    omega
  exact ⟨writesResultAndFlag_setResultFlag s x (byte_shiftRight_one_toNat _) (shiftedOutLow_toNat _) hlow,
    writesResultAndFlag_setResultFlag s x (byte_shiftLeft_one_toNat _) (shiftedOutHigh_toNat _) hhigh⟩

/-! ## The draw -/

/-- RND writes the next draw AND KK and consumes the draw (42_alu.md R171). -/
theorem exec_rnd (x : RegIx) (kk : Byte) (s : State) :
    exec (.rnd x kk) s = .next (s.dropDraw.setV x (BitVec.ofNat 8 s.nextDraw.val &&& kk)) := rfl

/-- A draw fits in a byte, so the byte AND KK is the draw AND KK. -/
theorem draw_and_toNat (r : Fin 255) (kk : Byte) :
    (BitVec.ofNat 8 r.val &&& kk).toNat = r.val &&& kk.toNat := by
  rw [BitVec.toNat_and, BitVec.toNat_ofNat, Nat.mod_eq_of_lt (by omega)]

/-- Consuming a draw and writing a register changes the registers and the random input alone. -/
theorem State.setV_dropDraw_frame (s : State) (x : RegIx) (b : Byte) :
    s.dropDraw.setV x b =
      { s with
        v := (s.dropDraw.setV x b).v
        drawInput := s.dropDraw.drawInput
        drawCount := s.dropDraw.drawCount } := by
  unfold State.dropDraw
  split <;> rfl

/-- The next draw is the host's, where it supplies one (log 6). -/
theorem State.nextDraw_of_drawInput {s : State} {r : Fin 255} {rest : List (Fin 255)}
    (h : s.drawInput = r :: rest) : s.nextDraw = r := by
  rw [State.nextDraw, h]

/-- The host's draw is consumed, where it supplies one (log 6). -/
theorem State.dropDraw_of_drawInput {s : State} {r : Fin 255} {rest : List (Fin 255)}
    (h : s.drawInput = r :: rest) : s.dropDraw = { s with drawInput := rest } := by
  rw [State.dropDraw, h]

/-- Settles O29: the byte written is the next draw AND KK, and the next draw is the host's where it supplies
one. -/
theorem randomWritesABoundedDraw : Obligations.RandomWritesABoundedDraw := by
  unfold Obligations.RandomWritesABoundedDraw
  refine ⟨encodedAs_of_entry rfl fun _ => rfl, fun x kk s => ?_, fun x kk s r rest hdraw => ?_⟩
  · refine ⟨_, exec_rnd x kk s, ⟨s.nextDraw.val, s.nextDraw_le, ?_⟩, fun j hj => ?_, ?_⟩
    · rw [State.getV_setV_same, draw_and_toNat]
    · rw [State.getV_setV, if_neg hj, State.getV, State.dropDraw_v, State.getV]
    · exact s.setV_dropDraw_frame x _
  · refine ⟨_, exec_rnd x kk s, ?_, ?_, ?_⟩
    · rw [State.getV_setV_same, draw_and_toNat, State.nextDraw_of_drawInput hdraw]
    · rw [State.setV_drawInput, State.dropDraw_of_drawInput hdraw]
    · rw [State.setV_drawCount, State.dropDraw_of_drawInput hdraw]

end Sys2Proof.Machine
end

section
/-! PROOFS. The display instructions (43_display.md R200 to R204). -/

namespace Sys2Proof.Machine

/-! ## CLS -/

/-- Settles O30: the framebuffer CLS leaves is the zero bit vector. -/
theorem clsClearsEveryCell : Obligations.ClsClearsEveryCell := by
  unfold Obligations.ClsClearsEveryCell
  exact ⟨encodedAs_of_entry rfl fun _ => rfl,
    fun s => ⟨{ s with fb := 0, redraw := true }, rfl, fun _ => BitVec.getLsbD_zero, rfl, rfl⟩⟩

/-! ## The cells of a sprite -/

/-- The cells drawn are the ones the sprite covers (43_display.md R201, R202). -/
theorem State.mem_spriteCells {s : State} {x0 y0 n c : Nat} :
    c ∈ s.spriteCells x0 y0 n ↔ SpriteCovers s x0 y0 n c := by
  simp only [State.spriteCells, rowCells, SpriteCovers, List.mem_flatMap, List.mem_map, List.mem_filter,
    List.mem_range, spriteBit_iff]
  constructor
  · rintro ⟨r, hr, k, ⟨hk, hbit⟩, rfl⟩
    exact ⟨r, hr, k, hk, hbit, rfl⟩
  · rintro ⟨r, hr, k, hk, hbit, rfl⟩
    exact ⟨r, hr, k, ⟨hk, hbit⟩, rfl⟩

/-- The framebuffer and the collision that DRW leaves when a sprite of n rows is drawn at (x0, y0)
(43_display.md R201). -/
def State.drawn (s : State) (x0 y0 n : Nat) : Frame × Bool := drawCells s.fb (s.spriteCells x0 y0 n)

/-- DRW writes the collision to VF, the drawn framebuffer to FB, and sets REDRAW (43_display.md R201). -/
theorem exec_drw (x y : RegIx) (n : BitVec 4) (s : State) :
    exec (.drw x y n) s =
      .next { s.setV vf (boolByte (s.drawn (s.getV x).toNat (s.getV y).toNat n.toNat).2) with
        fb := (s.drawn (s.getV x).toNat (s.getV y).toNat n.toNat).1, redraw := true } := rfl

/-- A draw of at most 16 rows hits no cell twice, so it flips each cell drawn once, and collides when one of
them was 1 before (43_display.md R203, R204). -/
theorem State.drawn_spec (s : State) (x0 y0 : Nat) {n : Nat} (hn : n ≤ 16) :
    (∀ c, (s.drawn x0 y0 n).1.getLsbD c = (s.fb.getLsbD c ^^ decide (c ∈ s.spriteCells x0 y0 n))) ∧
      (s.drawn x0 y0 n).2 = (s.spriteCells x0 y0 n).any fun c => s.fb.getLsbD c := by
  obtain ⟨bits, flag⟩ :=
    drawCell_foldl s.fb false _ (s.spriteCells_nodup x0 y0 n hn) (s.spriteCells_lt x0 y0 n)
  exact ⟨bits, flag.trans (Bool.false_or _)⟩

/-- A draw toggles a cell the sprite covers. -/
theorem State.drawn_getLsbD_of_covers {s : State} {x0 y0 n c : Nat} (hn : n ≤ 16)
    (hc : SpriteCovers s x0 y0 n c) : (s.drawn x0 y0 n).1.getLsbD c = !s.fb.getLsbD c := by
  rw [(s.drawn_spec x0 y0 hn).1 c, decide_eq_true (State.mem_spriteCells.2 hc), Bool.xor_true]

/-- A draw keeps a cell the sprite does not cover. -/
theorem State.drawn_getLsbD_of_not_covers {s : State} {x0 y0 n c : Nat} (hn : n ≤ 16)
    (hc : ¬ SpriteCovers s x0 y0 n c) : (s.drawn x0 y0 n).1.getLsbD c = s.fb.getLsbD c := by
  rw [(s.drawn_spec x0 y0 hn).1 c, decide_eq_false (mt State.mem_spriteCells.1 hc), Bool.xor_false]

/-- A draw collides exactly when the sprite covers a cell that was 1 (43_display.md R203). -/
theorem State.drawn_collides_iff {s : State} {x0 y0 n : Nat} (hn : n ≤ 16) :
    (s.drawn x0 y0 n).2 = true ↔ ∃ c, SpriteCovers s x0 y0 n c ∧ s.fb.getLsbD c = true := by
  simp only [(s.drawn_spec x0 y0 hn).2, List.any_eq_true, State.mem_spriteCells]

/-! ## DRW -/

/-- Settles O31: the cells drawn are distinct, so each covered cell is toggled once and tested as it was. -/
theorem drawTogglesTheSpriteCells : Obligations.DrawTogglesTheSpriteCells := by
  unfold Obligations.DrawTogglesTheSpriteCells
  refine ⟨encodedAs_of_entry rfl fun _ => rfl, ?_⟩
  rintro x y n s x0 y0 rfl rfl
  have hn : n.toNat ≤ 16 := n.isLt.le
  refine ⟨_, exec_drw x y n s, fun c => State.drawn_getLsbD_of_covers hn,
    fun c => State.drawn_getLsbD_of_not_covers hn, fun hhit => ?_, fun hmiss => ?_, fun j hj => ?_, rfl, rfl⟩
  · refine (State.getV_setV_same s vf _).trans ?_
    rw [(State.drawn_collides_iff hn).2 hhit]
    rfl
  · refine (State.getV_setV_same s vf _).trans ?_
    rw [Bool.eq_false_iff.2 (mt (State.drawn_collides_iff hn).1 hmiss)]
    rfl
  · exact (State.getV_setV s vf j _).trans (if_neg hj)

end Sys2Proof.Machine
end

section
/-! PROOFS. The key and timer instructions (44_timers_keys.md R220 to R226). -/

namespace Sys2Proof.Machine

/-! ## SKP and SKNP -/

/-- Settles O34: V[X] of at most 15 names a key flag, and above 15 it names none. -/
theorem keySkipsTestTheNamedKey : Obligations.KeySkipsTestTheNamedKey := by
  unfold Obligations.KeySkipsTestTheNamedKey
  refine ⟨encodedAs_of_entry rfl fun _ => rfl, encodedAs_of_entry rfl fun _ => rfl, fun x s k hk => ?_,
    fun x s hx => ?_⟩
  · have hkey : s.keyOf? x = some s.key[k] := s.keyOf?_of_eq x k hk
    rw [show exec (.skp x) s = .next (s.skipIf s.key[k]) from execSkp_of_key hkey,
      show exec (.sknp x) s = .next (s.skipIf !s.key[k]) from execSknp_of_key hkey]
    exact ⟨setsPc_skipIf s Iff.rfl, setsPc_skipIf s (by rw [Bool.not_eq_true'])⟩
  · have hkey : s.keyOf? x = none := s.keyOf?_of_gt x hx
    rw [show exec (.skp x) s = raise .keyIndex s from execSkp_of_noKey hkey,
      show exec (.sknp x) s = raise .keyIndex s from execSknp_of_noKey hkey]
    exact ⟨takesFault_raise .keyIndex s, takesFault_raise .keyIndex s⟩

/-! ## The wait for a key -/

/-- With no key down Fx0A goes back to its opcode (44_timers_keys.md R223). -/
theorem exec_ldVxK_of_noKey (x : RegIx) {s : State} (h : ∀ k : Fin 16, s.key[k] = false) :
    exec (.ldVxK x) s = .next s.rewind :=
  execLdVxK_of_none x (s.pressedCount_eq_zero.2 h)

/-- With some key down Fx0A writes 1 (44_timers_keys.md R223). -/
theorem exec_ldVxK_of_key (x : RegIx) {s : State} (h : ∃ k : Fin 16, s.key[k] = true) :
    exec (.ldVxK x) s = .next (s.setV x 1) := by
  obtain ⟨k, hk⟩ := h
  refine execLdVxK_of_pressed x fun hnone => ?_
  simp [s.pressedCount_eq_zero.1 hnone k] at hk

/-- A rewind sets pc to the opcode's address and nothing else (44_timers_keys.md R223). -/
theorem setsPc_rewind (s : State) : SetsPc (.next s.rewind) s ((s.pc.toNat + 4094) % 4096) :=
  ⟨_, rfl, s.opAddr_toNat, rfl⟩

/-- Settles O35: some key is down or none is. -/
theorem waitForKeyWritesOneOrRewinds : Obligations.WaitForKeyWritesOneOrRewinds := by
  unfold Obligations.WaitForKeyWritesOneOrRewinds
  refine ⟨encodedAs_of_entry rfl fun _ => rfl, fun x s => ⟨fun hkey => ?_, fun hnone => ?_⟩⟩
  · rw [exec_ldVxK_of_key x hkey]
    exact writesReg_setV s x rfl
  · rw [exec_ldVxK_of_noKey x hnone]
    exact setsPc_rewind s

/-- Settles O36: the rewind undoes the pre-advance, and the rest of the cycle ticks the timers. -/
theorem waitForKeyRepeatsWhileTimersTick : Obligations.WaitForKeyRepeatsWhileTimersTick := by
  unfold Obligations.WaitForKeyRepeatsWhileTimersTick
  intro s x hrun hpc hdecode hnone
  have hexec : exec (.ldVxK x) s.beginCycle = .next s.beginCycle.rewind := exec_ldVxK_of_noKey x hnone
  exact ⟨_, step_of_exec hrun hpc hdecode hexec (by simp [hrun]), by simp [hrun],
    by simp [s.opAddr_beginCycle hpc], by simp, by simp, by simp, by simp⟩

/-! ## The timer transfers -/

/-- LD Vx, DT writes DT to V[X] (44_timers_keys.md R222). -/
theorem exec_ldVxDt (x : RegIx) (s : State) : exec (.ldVxDt x) s = .next (s.setV x s.dt) := rfl

/-- LD DT, Vx writes V[X] to DT (44_timers_keys.md R225). -/
theorem exec_ldDtVx (x : RegIx) (s : State) : exec (.ldDtVx x) s = .next { s with dt := s.getV x } := rfl

/-- LD ST, Vx writes V[X] to ST (44_timers_keys.md R226). -/
theorem exec_ldStVx (x : RegIx) (s : State) : exec (.ldStVx x) s = .next { s with st := s.getV x } := rfl

@[simp] theorem State.getV_beginCycle (s : State) (x : RegIx) : s.beginCycle.getV x = s.getV x := rfl

@[simp] theorem State.getV_finishCycle (s : State) (x : RegIx) : s.finishCycle.getV x = s.getV x := by
  simp [State.getV]

@[simp] theorem State.finishCycle_audioOut (s : State) : s.finishCycle.audioOut = (s.st == 1) := by
  simp [State.finishCycle]

/-- Settles O37: the transfer acts on the timers as they were, and the rest of the cycle ticks what it
left. -/
theorem timerTransfersAreTickedInTheirCycle : Obligations.TimerTransfersAreTickedInTheirCycle := by
  unfold Obligations.TimerTransfersAreTickedInTheirCycle
  refine ⟨encodedAs_of_entry rfl fun _ => rfl, encodedAs_of_entry rfl fun _ => rfl,
    encodedAs_of_entry rfl fun _ => rfl,
    fun x s => ⟨writesReg_setV s x rfl, ⟨_, exec_ldDtVx x s, rfl, rfl⟩, ⟨_, exec_ldStVx x s, rfl, rfl⟩⟩,
    fun x s hrun hpc => ⟨fun hdecode => ?_, fun hdecode => ?_, fun hdecode => ?_⟩⟩
  · exact ⟨_, step_of_exec hrun hpc hdecode (exec_ldVxDt x _) (by simp [hrun]), by simp, by simp⟩
  · exact ⟨_, step_of_exec hrun hpc hdecode (exec_ldDtVx x _) (by simp [hrun]), by simp⟩
  · exact ⟨_, step_of_exec hrun hpc hdecode (exec_ldStVx x _) (by simp [hrun]), by simp, by simp⟩

end Sys2Proof.Machine
end

section
/-! PROOFS. The index register and the memory transfers (45_index_memory.md R240 to R245). -/

namespace Sys2Proof.Machine

/-! ## The index register -/

/-- LD I, nnn writes NNN to I (45_index_memory.md R240). -/
theorem exec_ldI (nnn : BitVec 12) (s : State) : exec (.ldI nnn) s = .next { s with index := addrOf nnn } := rfl

/-- ADD I, Vx writes the sum, reduced modulo 4096, to I (45_index_memory.md R241). -/
theorem exec_addI (x : RegIx) (s : State) :
    exec (.addI x) s = .next { s with index := wrapAddr (s.index.toNat + (s.getV x).toNat) } := rfl

/-- Settles O38: NNN is zero-extended, and the sum is reduced modulo 4096. -/
theorem indexLoadAndAdd : Obligations.IndexLoadAndAdd := by
  unfold Obligations.IndexLoadAndAdd
  exact ⟨encodedAs_of_entry rfl fun _ => rfl, encodedAs_of_entry rfl fun _ => rfl,
    fun nnn x s => ⟨⟨_, exec_ldI nnn s, addrOf_toNat nnn, rfl⟩, ⟨_, exec_addI x s, wrapAddr_toNat _, rfl⟩⟩⟩

/-- Settles O39: V[X] of at most 15 has a glyph address, below GLYPH_BASE + 80, and above 15 it has none. -/
theorem glyphAddressOrFault : Obligations.GlyphAddressOrFault := by
  unfold Obligations.GlyphAddressOrFault
  refine ⟨encodedAs_of_entry rfl fun _ => rfl, fun x s hx => ?_, fun x s hx => ?_⟩
  · obtain ⟨a, hglyph, ha⟩ := s.glyphAddr?_of_le x hx
    have hlow : a.toNat < 0x200 := by
      have := Config.glyphBase.isLt
      omega
    exact ⟨_, execLdF_of_glyph hglyph, ha, hlow, rfl⟩
  · rw [show exec (.ldF x) s = raise .glyphIndex s from execLdF_of_noGlyph (s.glyphAddr?_of_gt x hx)]
    exact takesFault_raise .glyphIndex s

/-! ## The stores -/

/-- A multi-byte store changes memory alone. -/
theorem State.writeBytes_frame (s : State) (k : Nat) (bytes : List Byte) :
    s.writeBytes k bytes = { s with mem := (s.writeBytes k bytes).mem } := by
  induction bytes generalizing s k with
  | nil => rfl
  | cons b rest ih => exact ih (s.memWrite (s.ea k) b) (k + 1)

/-- A multi-byte store clear of the reserved range stores its bytes (20_memory.md R60). -/
theorem storesBytes_of_clear {bytes : List Byte} {s : State} (hm : Memory.wf s.mem = true)
    (hlen : bytes.length ≤ 4096) (hclear : ∀ k < bytes.length, 0x200 ≤ s.ea k) :
    StoresBytes (storeBytes bytes s) s (bytes.map BitVec.toNat) := by
  refine ⟨_, storeBytes_of_clear ((s.touchesReserved_false_iff _).2 hclear), fun k hk => ?_,
    fun a ha => ?_, s.writeBytes_frame 0 bytes⟩
  · rw [List.length_map] at hk
    rw [List.getElem_map, ← s.memRead_writeBytes_same 0 bytes hm hlen hk, Nat.zero_add]
  · rw [List.length_map] at ha
    exact s.memRead_writeBytes_other 0 bytes fun j hj => by simpa using ha j hj

/-- A multi-byte store that touches the reserved range takes the fault RESERVED_WRITE (20_memory.md R59). -/
theorem takesFault_of_reserved {bytes : List Byte} {s : State} (h : ∃ k < bytes.length, s.ea k < 0x200) :
    TakesFault (storeBytes bytes s) s .reservedWrite := by
  rw [storeBytes_of_reserved ((s.touchesReserved_iff _).2 h)]
  exact takesFault_raise .reservedWrite s

/-- The decimal digits of a byte fit in bytes (45_index_memory.md R243). -/
theorem bcdDigits_toNat (b : Byte) :
    (bcdDigits b).map BitVec.toNat = [b.toNat / 100, b.toNat / 10 % 10, b.toNat % 10] := by
  have := b.isLt
  simp only [bcdDigits, List.map_cons, List.map_nil, BitVec.toNat_ofNat, List.cons.injEq, and_true]
  omega

/-- Settles O40: the three digits are the bytes of one multi-byte store. -/
theorem bcdDigitsAreStored : Obligations.BcdDigitsAreStored := by
  unfold Obligations.BcdDigitsAreStored
  refine ⟨encodedAs_of_entry rfl fun _ => rfl, fun s k => rfl, fun x s b hm hb hclear => ?_,
    fun x s hreserved => takesFault_of_reserved (bytes := bcdDigits (s.getV x)) hreserved⟩
  rw [hb, ← bcdDigits_toNat]
  exact storesBytes_of_clear hm (by simp [bcdDigits]) hclear

/-- Settles O41: V[0] to V[X] are the bytes of one multi-byte store, at most 16 of them. -/
theorem registersAreStored : Obligations.RegistersAreStored := by
  unfold Obligations.RegistersAreStored
  refine ⟨encodedAs_of_entry rfl fun _ => rfl, fun x s hm hclear => ?_, fun x s hreserved =>
    takesFault_of_reserved (bytes := s.regsUpTo x) (by rwa [s.regsUpTo_length x])⟩
  have hlen : (s.regsUpTo x).length = x.val + 1 := s.regsUpTo_length x
  obtain ⟨t, hexec, hread, hother, hframe⟩ :=
    storesBytes_of_clear (bytes := s.regsUpTo x) hm (by omega) (by rwa [hlen])
  rw [List.length_map, hlen] at hother
  refine ⟨t, hexec, fun j hj => BitVec.eq_of_toNat_eq ?_, hother, hframe⟩
  have hjx : j.val < (s.regsUpTo x).length := by
    rw [hlen]
    exact Nat.lt_succ_of_le hj
  rw [hread j.val (by rwa [List.length_map]), List.getElem_map, s.getElem_regsUpTo x j hjx]

/-! ## The load -/

/-- LD Vx, [I] loads V[0] to V[X] (45_index_memory.md R245). -/
theorem exec_ldVxMem (x : RegIx) (s : State) :
    exec (.ldVxMem x) s = .next (s.loadRegs ((List.finRange 16).take (x.val + 1))) := rfl

/-- Settles O42: a register up to X is in the list loaded, and one above X is not. -/
theorem registersAreLoaded : Obligations.RegistersAreLoaded := by
  unfold Obligations.RegistersAreLoaded
  refine ⟨encodedAs_of_entry rfl fun _ => rfl, fun x s =>
    ⟨_, exec_ldVxMem x s, fun j hj => ?_, fun j hj => ?_, s.loadRegs_frame _⟩⟩
  · rw [s.getV_loadRegs, if_pos ((mem_take_finRange x j).2 hj), State.ea]
  · rw [s.getV_loadRegs, if_neg fun hmem => hj.not_ge ((mem_take_finRange x j).1 hmem)]

end Sys2Proof.Machine
end

section
/-! PROOFS. The faults (60_exceptions.md R260 to R264): EXECUTE raises the fault that `faultOf` names before it
writes anything, and completes in RUNNING where `faultOf` names none. Both statements of the family read off
the step from that. -/

namespace Sys2Proof.Machine

/-! ## A behaviour against the fault that is due -/

/-- The result r of a behaviour in s is the fault `due` raised, or, where none is due, a completion that keeps
the run state and the record FAULT. -/
def AnswersFault (s : State) (due : Option FaultKind) (r : Result) : Prop :=
  match due with
  | some k => r = raise k s
  | none => ∃ t, r = .next t ∧ t.run = s.run ∧ t.fault = s.fault

/-- A behaviour with one fault condition answers by it. -/
theorem answersFault_ite {s : State} {c : Prop} [Decidable c] {k : FaultKind} {r : Result}
    (hfault : c → r = raise k s) (hdone : ¬ c → ∃ t, r = .next t ∧ t.run = s.run ∧ t.fault = s.fault) :
    AnswersFault s (if c then some k else none) r := by
  split
  · next hc => exact hfault hc
  · next hc => exact hdone hc

/-- An instruction without a fault condition completes. -/
theorem exec_answersFault_of_canFault_false {i : Instr} (hi : canFault i = false) (s : State) :
    AnswersFault s none (exec i s) := by
  obtain ⟨t, ht, -⟩ := exec_effect i s
  obtain ⟨-, -, -, hrecord, -⟩ := eachStateHasItsOwnWriters i s t ht
  obtain ⟨hrun, hfault, -⟩ := hrecord hi
  exact ⟨t, ht, hrun, hfault⟩

/-! ## The instructions that can fault -/

section
variable {s : State}

/-- CALL overflows exactly at SP = 16 (41_control.md R133). -/
theorem execCall_answersFault (nnn : BitVec 12) :
    AnswersFault s (if s.sp.val = 16 then some .stackOverflow else none) (execCall nnn s) :=
  answersFault_ite (fun hsp => execCall_of_full nnn (by omega))
    fun hsp => ⟨_, execCall_of_lt nnn (by omega), rfl, rfl⟩

/-- RET underflows exactly at SP = 0 (41_control.md R131). -/
theorem execRet_answersFault :
    AnswersFault s (if s.sp.val = 0 then some .stackUnderflow else none) (execRet s) :=
  answersFault_ite execRet_of_empty fun hsp => ⟨_, execRet_of_pos hsp, rfl, rfl⟩

/-- LD F, Vx faults exactly above 15 (45_index_memory.md R242). -/
theorem execLdF_answersFault (x : RegIx) :
    AnswersFault s (if 15 < (s.getV x).toNat then some .glyphIndex else none) (execLdF x s) := by
  refine answersFault_ite (fun hx => execLdF_of_noGlyph (s.glyphAddr?_of_gt x hx)) fun hx => ?_
  obtain ⟨a, ha, -⟩ := s.glyphAddr?_of_le x (Nat.not_lt.1 hx)
  exact ⟨_, execLdF_of_glyph ha, rfl, rfl⟩

/-- A behaviour that skips by the key V[X] names faults exactly above 15, where V[X] names none. -/
theorem keySkip_answersFault {x : RegIx} {r : Result} (hnoKey : s.keyOf? x = none → r = raise .keyIndex s)
    (hkey : ∀ down, s.keyOf? x = some down → ∃ c, r = .next (s.skipIf c)) :
    AnswersFault s (if 15 < (s.getV x).toNat then some .keyIndex else none) r := by
  refine answersFault_ite (fun hx => hnoKey (s.keyOf?_of_gt x hx)) fun hx => ?_
  obtain ⟨c, hc⟩ := hkey _ (s.keyOf?_of_eq x ⟨(s.getV x).toNat, by omega⟩ rfl)
  exact ⟨_, hc, s.skipIf_run c, s.skipIf_fault c⟩

/-- SKP faults exactly above 15 (44_timers_keys.md R220). -/
theorem execSkp_answersFault (x : RegIx) :
    AnswersFault s (if 15 < (s.getV x).toNat then some .keyIndex else none) (execSkp x s) :=
  keySkip_answersFault execSkp_of_noKey fun down h => ⟨down, execSkp_of_key h⟩

/-- SKNP faults exactly above 15 (44_timers_keys.md R221). -/
theorem execSknp_answersFault (x : RegIx) :
    AnswersFault s (if 15 < (s.getV x).toNat then some .keyIndex else none) (execSknp x s) :=
  keySkip_answersFault execSknp_of_noKey fun down h => ⟨!down, execSknp_of_key h⟩

/-- A store of n bytes faults exactly when one of its n addresses is reserved (20_memory.md R59, R60). -/
theorem storeBytes_answersFault {bytes : List Byte} {n : Nat} (hn : bytes.length = n)
    [Decidable (∃ k : Fin n, s.ea k.val < 0x200)] :
    AnswersFault s (if ∃ k : Fin n, s.ea k.val < 0x200 then some .reservedWrite else none)
      (storeBytes bytes s) := by
  have hreserved : s.touchesReserved bytes.length = true ↔ ∃ k : Fin n, s.ea k.val < 0x200 := by
    rw [s.touchesReserved_iff, hn, Fin.exists_iff]
    simp only [exists_prop]
  refine answersFault_ite (fun h => storeBytes_of_reserved (hreserved.2 h)) fun h => ?_
  have hclear : s.touchesReserved bytes.length = false := Bool.eq_false_iff.2 fun ht => h (hreserved.1 ht)
  exact ⟨_, storeBytes_of_clear hclear, by simp, by simp⟩

end

/-! ## EXECUTE -/

/-- FETCH_OUT_OF_RANGE is due first (60_exceptions.md R261). -/
theorem faultOf_of_fetchFault {s : State} (hpc : 0xFFE < s.pc.toNat) : faultOf s = some .fetchOutOfRange :=
  if_pos hpc

/-- No fault is due in the cycle of an unmatched opcode (40_cycle.md R113). -/
theorem faultOf_of_decode_error {s : State} {e : Unmatched} (hpc : s.pc.toNat ≤ 0xFFE)
    (hdecode : decode s.fetchOp = .error e) : faultOf s = none := by
  rw [faultOf, if_neg (Nat.not_lt.2 hpc), hdecode]

/-- The decoded instruction answers by the fault that is due (60_exceptions.md R261, R263). -/
theorem exec_answersFault {s : State} {i : Instr} (hpc : s.pc.toNat ≤ 0xFFE)
    (hdecode : decode s.fetchOp = .ok i) : AnswersFault s.beginCycle (faultOf s) (exec i s.beginCycle) := by
  rw [faultOf, if_neg (Nat.not_lt.2 hpc), hdecode]
  cases i with
  | call nnn => exact execCall_answersFault nnn
  | ret => exact execRet_answersFault
  | ldF x => exact execLdF_answersFault x
  | skp x => exact execSkp_answersFault x
  | sknp x => exact execSknp_answersFault x
  | ldB x => exact storeBytes_answersFault (bytes := bcdDigits (s.getV x)) (n := 3) rfl
  | ldMemVx x => exact storeBytes_answersFault (State.regsUpTo_length _ x)
  | _ => exact exec_answersFault_of_canFault_false rfl _

/-- EXECUTE, with an instruction or without one, answers by the fault that is due, and the rest of the cycle
takes up its answer. -/
theorem step_eq_afterExecute {s : State} (hrun : s.run = .running) (hpc : s.pc.toNat ≤ 0xFFE) :
    ∃ r, step s = afterExecute r ∧ AnswersFault s.beginCycle (faultOf s) r := by
  rw [step_of_fetch hrun hpc]
  cases hdecode : decode s.fetchOp with
  | error e =>
    rw [faultOf_of_decode_error hpc hdecode]
    exact ⟨_, runOpcode_of_decode_error hdecode _, _, rfl, rfl, rfl⟩
  | ok i => exact ⟨_, runOpcode_of_decode hdecode _, exec_answersFault hpc hdecode⟩

/-! ## The step -/

/-- Where a fault is due the step takes it: the outputs cleared, pc at the opcode's address, the fault
recorded, and nothing else (60_exceptions.md R264). -/
theorem step_of_faultOf_some {s : State} {k : FaultKind} (hrun : s.run = .running) (hk : faultOf s = some k) :
    step s = .next (s.clearOutputs.enterFaulted k s.pc) := by
  rcases Nat.lt_or_ge 0xFFE s.pc.toNat with hpc | hpc
  · cases hk.symm.trans (faultOf_of_fetchFault hpc)
    exact step_of_fetchFault hrun hpc
  · obtain ⟨r, hstep, hr⟩ := step_eq_afterExecute hrun hpc
    rw [hk] at hr
    have hraise : r = .next (s.beginCycle.enterFaulted k s.pc) := by
      rw [← s.opAddr_beginCycle hpc]
      exact hr
    rw [hstep, hraise, afterExecute_next, if_pos (State.enterFaulted_run ..)]
    rfl

@[simp] theorem State.finishCycle_fault (s : State) : s.finishCycle.fault = s.fault := by
  simp [State.finishCycle]

/-- Where no fault is due the cycle completes in RUNNING, and the record FAULT is kept. -/
theorem step_of_faultOf_none {s : State} (hrun : s.run = .running) (hnone : faultOf s = none) :
    ∃ t, step s = .next t ∧ t.run = .running ∧ t.fault = s.fault := by
  rcases Nat.lt_or_ge 0xFFE s.pc.toNat with hpc | hpc
  · cases hnone.symm.trans (faultOf_of_fetchFault hpc)
  · obtain ⟨r, hstep, hr⟩ := step_eq_afterExecute hrun hpc
    rw [hnone] at hr
    obtain ⟨u, rfl, hurun, hufault⟩ := hr
    have hrunning : u.run = .running := hurun.trans hrun
    refine ⟨u.finishCycle, ?_, u.finishCycle_run.trans hrunning, u.finishCycle_fault.trans hufault⟩
    rw [hstep, afterExecute_next, if_neg (by simp [hrunning])]

/-- FAULTED has no step (60_exceptions.md R260). -/
theorem step_of_faulted {s : State} (hrun : s.run = .faulted) : step s = .fault (.halted s.fault) := by
  simp only [step, hrun]

/-- Settles O10: a step that leaves FAULTED is one where a fault was due. -/
theorem faultsArePreciseAndHalting : Obligations.FaultsArePreciseAndHalting := by
  unfold Obligations.FaultsArePreciseAndHalting
  intro s t hrun hstep hfaulted
  refine ⟨?_, fun u hu => ?_⟩
  · cases hdue : faultOf s with
    | some k =>
      cases hstep.symm.trans (step_of_faultOf_some hrun hdue)
      exact ⟨k, rfl⟩
    | none =>
      obtain ⟨u, hu, hrunning, -⟩ := step_of_faultOf_none hrun hdue
      cases hstep.symm.trans hu
      cases hrunning.symm.trans hfaulted
  · cases hu.symm.trans (step_of_faulted hfaulted)

/-- Settles O11, by whether a fault is due. -/
theorem faultsHappenExactlyAsTabled : Obligations.FaultsHappenExactlyAsTabled := by
  unfold Obligations.FaultsHappenExactlyAsTabled
  exact ⟨fun s hrun => ⟨fun k hk => ⟨_, step_of_faultOf_some hrun hk, rfl, rfl, rfl⟩,
    step_of_faultOf_none hrun⟩, rfl⟩

end Sys2Proof.Machine
end

section
/-! PROOFS. Boot (70_reset_and_hazards.md R290, R292): what it answers to each of the loader's answers, and
the memory it leaves. -/

namespace Sys2Proof.Machine

/-! ## What boot answers -/

/-- The step from BOOT is the boot (log 12). -/
theorem step_of_boot {s : State} (hrun : s.run = .boot) : step s = boot s := by
  simp only [step, hrun]

/-- A program that fits is copied (70_reset_and_hazards.md R290). -/
theorem boot_of_fits {s : State} {bytes : List Byte} (hload : s.loader = .image bytes)
    (hlen : bytes.length ≤ programCapacity) : boot s = .next (s.booted bytes) := by
  rw [boot, hload]
  exact if_pos hlen

/-- A program that does not fit stops the boot (70_reset_and_hazards.md R290; log 13). -/
theorem boot_of_tooLong {s : State} {bytes : List Byte} (hload : s.loader = .image bytes)
    (hlen : programCapacity < bytes.length) : boot s = .fault .bootFailed := by
  rw [boot, hload]
  exact if_neg (Nat.not_le.2 hlen)

/-- A program that cannot be read stops the boot (70_reset_and_hazards.md R290; log 13). -/
theorem boot_of_unreadable {s : State} (hload : s.loader = .unreadable) : boot s = .fault .bootFailed := by
  rw [boot, hload]

/-! ## The memory it leaves -/

/-- The k-th byte of a program that fits stands at 0x200 + k. -/
theorem State.memRead_booted_inside (s : State) {bytes : List Byte} (hlen : bytes.length ≤ programCapacity)
    {k : Nat} (hk : k < bytes.length) : (s.booted bytes).memRead (0x200 + k) = bytes[k] :=
  Memory.read_load_inside bytes rfl (Nat.add_le_add_left hlen 0x200) hk

/-- Outside the program memory is as at reset. -/
theorem State.memRead_booted_outside (s : State) {bytes : List Byte} {a : Nat}
    (ha : a < 0x200 ∨ 0x200 + bytes.length ≤ a) : (s.booted bytes).memRead a = State.reset.memRead a :=
  Memory.read_load_outside State.reset.mem 0x200 bytes ha

/-- Settles O47, by the loader's answer: a program that fits, one that does not, and one that cannot be
read. -/
theorem bootCopiesTheProgramOrFails : Obligations.BootCopiesTheProgramOrFails := by
  unfold Obligations.BootCopiesTheProgramOrFails
  refine ⟨fun s bytes hrun hload hlen => ?_, fun s bytes hrun hload hlen => ?_, fun s hrun hload => ?_⟩
  · exact ⟨s.booted bytes, (step_of_boot hrun).trans (boot_of_fits hload hlen),
      fun k hk => s.memRead_booted_inside hlen hk, fun a ha => s.memRead_booted_outside ha, rfl⟩
  · exact (step_of_boot hrun).trans (boot_of_tooLong hload hlen)
  · exact (step_of_boot hrun).trans (boot_of_unreadable hload)

end Sys2Proof.Machine
end

section
/-! PROOFS. The opcodes that match no entry (30_encoding.md R87): the scan finds nothing exactly where the
decoder answers an error, and the decoder's split on the fields lists those words. -/

namespace Sys2Proof.Machine

/-! ## The errors of the decoder -/

/-- No entry matches exactly the words that decode to an error (30_encoding.md R90). -/
theorem matchesOf_eq_nil_iff (op : Word) : matchesOf op = [] ↔ ∃ e, decode op = .error e := by
  by_cases hfix : IsFixedWord op
  · obtain rfl | rfl := hfix
    · simp [matchesOf_cls, show decode 0x00E0#16 = .ok .cls from rfl]
    · simp [matchesOf_ret, show decode 0x00EE#16 = .ok .ret from rfl]
  · rw [matchesOf_eq hfix]
    cases decode op <;> simp [Except.toOption]

/-- Class 8 answers an error for seven low nibbles (30_encoding.md R87). -/
theorem decodeClass8_error_iff (op : Word) :
    (∃ e, decodeClass8 op = .error e) ↔ opBits op 0 4 ∈ [0x8, 0x9, 0xA, 0xB, 0xC, 0xD, 0xF] := by
  have hn := opBits_lt op 0 4
  unfold decodeClass8
  interval_cases opBits op 0 4 <;> simp

/-- Class E answers an error for every low byte but two (30_encoding.md R87). -/
theorem decodeClassE_error_iff (op : Word) :
    (∃ e, decodeClassE op = .error e) ↔ opBits op 0 8 ∉ [0x9E, 0xA1] := by
  unfold decodeClassE
  split <;> simp_all

/-- Class F answers an error for every low byte but nine (30_encoding.md R87). -/
theorem decodeClassF_error_iff (op : Word) :
    (∃ e, decodeClassF op = .error e) ↔
      opBits op 0 8 ∉ [0x07, 0x0A, 0x15, 0x18, 0x1E, 0x29, 0x33, 0x55, 0x65] := by
  unfold decodeClassF
  split <;> simp_all

/-- The words that decode to an error, by class: none outside the classes 8, E and F (30_encoding.md
R87). -/
theorem decode_error_iff (op : Word) :
    (∃ e, decode op = .error e) ↔
      (opBits op 12 4 = 0x8 ∧ opBits op 0 4 ∈ [0x8, 0x9, 0xA, 0xB, 0xC, 0xD, 0xF]) ∨
      (opBits op 12 4 = 0xE ∧ opBits op 0 8 ∉ [0x9E, 0xA1]) ∨
      (opBits op 12 4 = 0xF ∧
        opBits op 0 8 ∉ [0x07, 0x0A, 0x15, 0x18, 0x1E, 0x29, 0x33, 0x55, 0x65]) := by
  rw [← decodeClass8_error_iff, ← decodeClassE_error_iff, ← decodeClassF_error_iff]
  have hc := opBits_lt op 12 4
  unfold decode
  interval_cases opBits op 12 4 <;> simp

/-- The leading nibble of a word, as a quotient. -/
theorem opBits_class (op : Word) : opBits op 12 4 = op.toNat / 4096 := by
  have := op.isLt
  simp only [opBits]
  omega

/-- The low bits of a word, as a remainder. -/
theorem opBits_low (op : Word) (width : Nat) : opBits op 0 width = op.toNat % 2 ^ width := by
  rw [opBits, pow_zero, Nat.div_one]

/-! ## Their cycle -/

/-- The cycle of an opcode that matches no entry is the rest of the cycle, on the pre-advanced state
(40_cycle.md R113). -/
theorem step_of_unmatched {s : State} (hrun : s.run = .running) (hpc : s.pc.toNat ≤ 0xFFE)
    (hnone : matchesOf s.fetchOp = []) : step s = .next s.beginCycle.finishCycle := by
  obtain ⟨e, hdecode⟩ := (matchesOf_eq_nil_iff _).1 hnone
  rw [step_of_fetch hrun hpc, runOpcode_of_decode_error hdecode, afterExecute_next, if_neg (by simp [hrun])]

/-- Settles O5: the decoder's errors, class by class, and the cycle without a behaviour. -/
theorem unmatchedOpcodesAreExactlyTheListed : Obligations.UnmatchedOpcodesAreExactlyTheListed := by
  unfold Obligations.UnmatchedOpcodesAreExactlyTheListed
  refine ⟨fun op => ?_, fun s hrun hpc hnone =>
    ⟨s.beginCycle, wrapAddr_toNat _, rfl, step_of_unmatched hrun hpc hnone⟩⟩
  rw [matchesOf_eq_nil_iff, decode_error_iff, opBits_class, opBits_low op 4, opBits_low op 8]
  exact Iff.rfl

end Sys2Proof.Machine
end

section
/-! PROOFS. Drawing the same sprite twice (43_display.md, derived from R201 and R203): each draw flips the
same cells. -/

namespace Sys2Proof.Machine

/-! ## What a draw sees and leaves -/

/-- DRW leaves the drawn framebuffer in FB and the collision in VF (43_display.md R201). -/
theorem drawn_of_exec_drw {x y : RegIx} {n : BitVec 4} {s t : State} (h : exec (.drw x y n) s = .next t) :
    t.fb = (s.drawn (s.getV x).toNat (s.getV y).toNat n.toNat).1 ∧
      t.getV vf = boolByte (s.drawn (s.getV x).toNat (s.getV y).toNat n.toNat).2 := by
  cases h.symm.trans (exec_drw x y n s)
  exact ⟨rfl, State.getV_setV_same s vf _⟩

/-- The cells of a sprite depend on I and the sprite's bytes alone (43_display.md R201). -/
theorem State.spriteCells_congr {s u : State} {n : Nat} (hindex : u.index = s.index)
    (hbytes : ∀ r < n, u.memRead (s.ea r) = s.memRead (s.ea r)) (x0 y0 : Nat) :
    u.spriteCells x0 y0 n = s.spriteCells x0 y0 n := by
  have hea : u.ea = s.ea := by
    funext r
    rw [State.ea, State.ea, hindex]
  refine List.flatMap_congr fun r hr => ?_
  rw [hea, hbytes r (List.mem_range.1 hr)]

/-! ## The second draw -/

section
variable {s u : State} {x0 y0 n : Nat}

/-- A second draw of the same cells, on the framebuffer the first one left, restores the framebuffer: each
cell is flipped twice or not at all. -/
theorem State.drawn_drawn (hn : n ≤ 16) (hfb : u.fb = (s.drawn x0 y0 n).1)
    (hcells : u.spriteCells x0 y0 n = s.spriteCells x0 y0 n) : (u.drawn x0 y0 n).1 = s.fb := by
  refine BitVec.eq_of_getLsbD_eq fun c _ => ?_
  obtain ⟨hfirst, -⟩ := s.drawn_spec x0 y0 hn
  obtain ⟨hsecond, -⟩ := u.drawn_spec x0 y0 hn
  rw [hsecond c, hcells, hfb, hfirst c, Bool.xor_assoc, Bool.xor_self, Bool.xor_false]

/-- A draw on a blank framebuffer lights exactly the cells the sprite covers. -/
theorem State.drawn_getLsbD_of_blank (hn : n ≤ 16) (hblank : s.fb = 0) (c : Nat) :
    (s.drawn x0 y0 n).1.getLsbD c = true ↔ SpriteCovers s x0 y0 n c := by
  rw [(s.drawn_spec x0 y0 hn).1 c, hblank, BitVec.ofNat_eq_ofNat, BitVec.getLsbD_zero, Bool.false_xor,
    decide_eq_true_iff, State.mem_spriteCells]

/-- A draw on a blank framebuffer does not collide. -/
theorem State.drawn_not_collides_of_blank (hn : n ≤ 16) (hblank : s.fb = 0) : (s.drawn x0 y0 n).2 = false := by
  refine Bool.eq_false_iff.2 fun hhit => ?_
  obtain ⟨c, -, hlit⟩ := (State.drawn_collides_iff hn).1 hhit
  simp [hblank] at hlit

/-- A second draw of the same cells, after a first one on a blank framebuffer, collides when the sprite
covers a cell. -/
theorem State.drawn_collides_of_drawn (hn : n ≤ 16) (hblank : s.fb = 0) (hfb : u.fb = (s.drawn x0 y0 n).1)
    (hcells : u.spriteCells x0 y0 n = s.spriteCells x0 y0 n) (hcovers : ∃ c, SpriteCovers s x0 y0 n c) :
    (u.drawn x0 y0 n).2 = true := by
  obtain ⟨c, hc⟩ := hcovers
  refine (State.drawn_collides_iff hn).2 ⟨c, State.mem_spriteCells.1 ?_, ?_⟩
  · rw [hcells]
    exact State.mem_spriteCells.2 hc
  · rw [hfb]
    exact (State.drawn_getLsbD_of_blank hn hblank c).2 hc

end

/-- Settles O32: both draws flip the cells of the one sprite. -/
theorem drawingTwiceRestoresTheFramebuffer : Obligations.DrawingTwiceRestoresTheFramebuffer := by
  unfold Obligations.DrawingTwiceRestoresTheFramebuffer
  rintro x y n s t u w x0 y0 rfl rfl hfirst hfb hindex hx hy hbytes hsecond
  have hn : n.toNat ≤ 16 := n.isLt.le
  have hcells := State.spriteCells_congr hindex hbytes (s.getV x).toNat (s.getV y).toNat
  obtain ⟨htfb, htvf⟩ := drawn_of_exec_drw hfirst
  obtain ⟨hwfb, hwvf⟩ := drawn_of_exec_drw hsecond
  rw [hx, hy] at hwfb hwvf
  have hufb := hfb.trans htfb
  have hrestored : w.fb = s.fb := hwfb.trans (State.drawn_drawn hn hufb hcells)
  refine ⟨hrestored, fun hblank => ⟨fun c => ?_, ?_, hrestored.trans hblank, fun hcovers => ?_⟩⟩
  · rw [htfb]
    exact State.drawn_getLsbD_of_blank hn hblank c
  · rw [htvf, State.drawn_not_collides_of_blank hn hblank]
    rfl
  · rw [hwvf, State.drawn_collides_of_drawn hn hblank hufb hcells hcovers]
    rfl

end Sys2Proof.Machine
end

section
/-! PROOFS. What is written to I (10_state.md R25), and the load that undoes a store of registers
(45_index_memory.md R244 to R246). -/

namespace Sys2Proof.Machine

/-- An effect leaves I, or it is that of Annn, Fx1E or Fx29 and I is below 4096 (10_state.md R25). -/
theorem Effect.index_cases {s t : State} {i : Instr} (he : Effect s i t) :
    t.index = s.index ∨
      t.index.toNat < 4096 ∧ ((∃ nnn, i = .ldI nnn) ∨ (∃ x, i = .addI x) ∨ (∃ x, i = .ldF x)) := by
  cases he with
  | index a hi ha => exact .inr ⟨ha, hi⟩
  | store bytes hi ha => exact .inl (s.writeBytes_index bytes 0)
  | random x kk b => exact .inl s.dropDraw_index
  | _ => exact .inl rfl

/-- Settles O15, by the shapes of an effect. -/
theorem indexWritesStayBelow4096 : Obligations.IndexWritesStayBelow4096 := by
  unfold Obligations.IndexWritesStayBelow4096
  exact fun i s t h hchanged => (Effect.of_exec h).index_cases.resolve_left hchanged

/-- Settles O43: the load reads at `ea(j)` the byte `V[j]` that the store put there. -/
theorem storeThenLoadRestoresRegisters : Obligations.StoreThenLoadRestoresRegisters := by
  unfold Obligations.StoreThenLoadRestoresRegisters
  refine fun x s t u hm hstore hrun hmem hindex => ⟨_, exec_ldVxMem x u, fun j hj => ?_⟩
  calc (u.loadRegs ((List.finRange 16).take (x.val + 1))).getV j
      = u.memRead (u.ea j.val) := by rw [u.getV_loadRegs, if_pos ((mem_take_finRange x j).2 hj)]
    _ = t.memRead (s.ea j.val) := by rw [State.memRead, State.memRead, State.ea, State.ea, hmem, hindex]
    _ = s.getV j := memRead_of_execLdMemVx hm hstore hrun hj

end Sys2Proof.Machine
end
